-- ==== Sys2Proof/Word.lean ====
section
/-! DEFINITION. The word types of the 80386: sizes as rule R8 derives them (a byte is 8 bits, a word 16),
linear addresses, EIP, ESP and EFLAGS 32 bits wide (rule R5, decision D2). -/

namespace Sys2Proof

/-- 8 bits (rule R8). -/
abbrev Byte := BitVec 8

/-- 16 bits: the "word" of the page (rule R8); a selector, FLAGS, IP, SP, an error code. -/
abbrev Word := BitVec 16

/-- 32 bits: two words; EIP, ESP, EFLAGS, a linear address (rule R5). -/
abbrev DWord := BitVec 32

/-- 64 bits: one descriptor as it lies in memory (rules R51, R52). -/
abbrev QWord := BitVec 64

end Sys2Proof
end

