-- ==== Sys2Proof/Config.lean ====
section
/-! DEFINITION. What stands fixed for the machine: the parameters of rule R5, and the free bytes of PAD16.
The two parameters whose types mention the machine's state (SwitchTasks, and the any-value state of a
shutdown) stand in Sys2Proof/Machine/Params.lean. -/

namespace Sys2Proof.Config

/-- `VECTOR_COUNT` of rule R5: vectors 0 to 255. -/
def vectorCount : Nat := 256

/-- `RESERVED_VECTORS` of rule R5: vectors 0 to 31 are reserved by Intel for system use (rule R72: a rule
for software, never a ground to refuse an instruction). -/
def reservedVectors : Nat := 32

/-- `IDT_ENTRY_BYTES_REAL` of rule R5: a real-mode IDT entry is four bytes long. -/
def idtEntryBytesReal : Nat := 4

/-- `IDT_ENTRY_BYTES_PROT` of rule R5: a protected-mode IDT entry is eight bytes long. -/
def idtEntryBytesProt : Nat := 8

/-- What a byte of memory that no entry lists reads as.
DESIGN CHOICE (log entry 2): the spec takes memory as a total byte map supplied at launch (rules R43, R57). -/
def unlistedByte : Byte := 0

/-- The bytes of `PAD16` (rules R5, R46): the upper half of a selector or an error code pushed as four bytes is
any value, drawn afresh at each push. A free value: the argument is the number of the draw (`State.draws`), and
nothing can evaluate the constant (log entry 3). -/
opaque freeByte : Nat → Byte

/-- `IsAvailableTSS` of rule R5, an OPEN predicate on the access-rights byte of a TSS descriptor (rule R117,
decision D16). A constant with no body: nothing can evaluate it, and a claim holds whichever kinds are available
(log entry 11). -/
opaque isAvailableTss : Byte → Bool

end Sys2Proof.Config
end

