-- ==== Sys2Proof/Machine/State.lean ====
section
/-! DEFINITION. The state of the machine (rule R10 and the rules it points at), the reasons a step can stop,
and the state after reset (rule R32). Plain data throughout. -/

namespace Sys2Proof.Machine

/-- The invisible portion of a segment register: the descriptor loaded with the selector (rule R20). -/
structure Hidden where
  /-- The segment's 32-bit base. -/
  base : DWord
  /-- The effective limit, in bytes (`limit_eff` of rule R52). -/
  limit : DWord
  /-- The access-rights byte (rule R52). -/
  ar : Byte
  /-- The D bit of a code segment, the B bit of a stack segment: true is 32-bit (rule R52). -/
  big : Bool
  deriving DecidableEq, Repr, Inhabited

/-- CS or SS: a visible selector and an invisible portion (rules R20, R22). -/
structure SegReg where
  selector : Word
  inv : Hidden
  deriving DecidableEq, Repr, Inhabited

/-- DS, ES, FS or GS. The invisible portion is `none` when it is marked not usable, as it is after a null
selector was loaded (rule R23). -/
structure DataSegReg where
  selector : Word
  inv : Option Hidden
  deriving DecidableEq, Repr, Inhabited

/-- IDTR, GDTR, or the cached part of LDTR: a linear base and the offset of the table's last valid byte
(rules R25, R26). -/
structure TableReg where
  base : DWord
  limit : Word
  deriving DecidableEq, Repr, Inhabited

/-- TR: where the current TSS lies, its limit, and whether it is a 386 TSS or a 286 TSS (rule R27).
PRESUMED (log entry 5): the limit is kept as a 32-bit byte limit. -/
structure TaskReg where
  base : DWord
  limit : DWord
  is386 : Bool
  deriving DecidableEq, Repr, Inhabited

/-- The seven general registers other than ESP (rule R28); no rule reads or writes them. -/
structure GeneralRegs where
  eax : DWord
  ecx : DWord
  edx : DWord
  ebx : DWord
  ebp : DWord
  esi : DWord
  edi : DWord
  deriving DecidableEq, Repr, Inhabited

/-- Memory: address and byte pairs, addresses strictly rising, no entry equal to what an unlisted address
reads as (`Memory.wf`, Sys2Proof/Machine/Memory.lean). A byte that holds a free value is not listed here but in
`State.free`, so that a state is always a literal that can be evaluated and compared. -/
abbrev Memory := List Host.Cell

/-- Everything the spec gives the machine (rule R10), and the model's own three fields (`free`, `pushed`, `draws`) at the end. -/
@[ext]
structure State where
  /-- EAX, ECX, EDX, EBX, EBP, ESI, EDI (rule R28). -/
  gpr : GeneralRegs
  /-- The stack pointer ESP; SP is its low half (rule R22). -/
  esp : DWord
  /-- The instruction pointer EIP; IP is its low half (rule R21). -/
  eip : DWord
  /-- EFLAGS; FLAGS is its low half (rule R11). -/
  eflags : DWord
  /-- The protection-enable bit PE (rule R18). -/
  pe : Bool
  /-- The current privilege level (rule R24); read through `State.privilege`. -/
  cpl : BitVec 2
  /-- `PAGING_ENABLED` (rules R5, R55): a state with paging on is refused. -/
  paging : Bool
  /-- The code segment register (rule R20). -/
  cs : SegReg
  /-- The stack segment register (rule R22). -/
  ss : SegReg
  /-- The data segment registers (rule R23). -/
  ds : DataSegReg
  es : DataSegReg
  fs : DataSegReg
  gs : DataSegReg
  /-- The interrupt descriptor table register (rule R25). -/
  idtr : TableReg
  /-- The global descriptor table register (rule R26). -/
  gdtr : TableReg
  /-- The cached base and limit of the local descriptor table (rule R26). -/
  ldtr : TableReg
  /-- The current TSS (rule R27). -/
  tr : TaskReg
  /-- The processor has shut down (rule R30). -/
  shutdown : Bool
  /-- Memory, keyed by linear address (rules R40, R43). -/
  mem : Memory
  /-- The MODEL'S OWN: the bytes of memory that hold a free value, as address and number of the draw, addresses
  strictly rising; such an address has no entry in `mem` (rule R46, `PAD16`). -/
  free : List (Nat × Nat)
  /-- The MODEL'S OWN: the linear addresses that interrupt pushes have stored to, strictly rising; a program
  that executes one of these bytes is refused (rule R61). -/
  pushed : List Nat
  /-- The MODEL'S OWN: how many free values have been drawn (rule R46, `PAD16`; decision D19, shutdown). -/
  draws : Nat
  deriving DecidableEq, Repr, Inhabited

/-- What stops the machine with a fault. -/
inductive Fault where
  /-- The processor is in shutdown and executes no further instruction (rule R30). Raised by `step` and by
  every meaning when `State.shutdown` holds. Safe: nothing is claimed of what follows. -/
  | shutdown
  deriving DecidableEq, Repr

/-- The cases to which the spec gives no meaning and which it tells a model to refuse. Every refusal is safe:
nothing is claimed of what the hardware does there. -/
inductive Refusal where
  /-- An instruction that has no meaning yet; only an arm of `exec` may answer it. -/
  | notModelled (mnemonic : String)
  /-- `step`: the first byte at CS:EIP is none of CC, CD and CE (rules R73, R74, decision D1). -/
  | unknownOpcode (opcode : Byte)
  /-- `step`, every meaning and `deliver`: paging is on (rule R55, decision D4). -/
  | pagingEnabled
  /-- `step`, every meaning and `deliver`: PE = 0 and VM = 1 (rule R19, decision D12). -/
  | vm86WithoutProtection
  /-- `step` and every meaning: the instruction starts with TF = 1 (rules R14, R145, decision D28). -/
  | trapFlagSet
  /-- `step`: a byte of the instruction lies outside the CS limit (rule R80, decision D33). -/
  | fetchBeyondLimit
  /-- Every meaning: EIP plus the length exceeds the offset range of the code segment (rule R85,
  decision D33). -/
  | instructionPointerWraps
  /-- `step`: a byte of the instruction was stored by an interrupt push (rule R61, decision D25). -/
  | executesPushedBytes
  /-- `deliver`: a 32-bit stack in Real Address Mode (decision D19). -/
  | realModeWideStack
  /-- `deliver`: a real-mode vector whose entry is not wholly below the IDT limit (rule R47, decision D20). -/
  | realModeVectorBeyondLimit
  /-- `deliver`: a conforming code segment with DPL > CPL (rule R110, decision D18). -/
  | conformingSegmentAboveCpl
  /-- `deliver`: an interrupt from Virtual 8086 Mode not to PL 0 or through a 16-bit gate (rule R113). -/
  | v86NotToLevelZero
  /-- `deliver`: NT = 1 on entry to the Virtual 8086 Mode path (rule R114, decision D12). -/
  | v86NestedTaskSet
  /-- `deliver`: the stack pointer would wrap below 0 during the pushes (rule R54, decision D22). -/
  | stackPointerWraps
  /-- `deliver`: the accessed bit of the new CS or SS descriptor is 0 (rule R52, decision D23). -/
  | accessedBitClear
  /-- `deliver`: the TSS fields lie beyond the TSS limit (rule R53, decision D26). -/
  | tssBeyondLimit
  /-- `deliver`: SWITCH-TASKS, when the parameter `Config.switchTasks` supplies no switch for the case or
  answers a state that is no legal machine state (rule R117, decision D17). -/
  | switchTasksUndefined
  /-- `deliver`: an exception during the delivery of an exception (rule R131, decision D9). -/
  | exceptionDuringException
  deriving DecidableEq, Repr

/-- The invisible portion of every segment register at reset but for the base: limit FFFFH (rule R32), 16-bit
(rule R44); the access-rights byte 93H is PRESUMED (log entry 6). -/
def resetHidden (base : DWord) : Hidden :=
  { base := base, limit := 0xFFFF#32, ar := 0x93#8, big := false }

/-- The machine right after reset: the suggested default of rule R32 (decision D24: the source gives no reset
value). What that column calls not defined is a value named in log entry 6. -/
def State.reset : State where
  gpr := { eax := 0, ecx := 0, edx := 0x300#32, ebx := 0, ebp := 0, esi := 0, edi := 0 }
  esp := 0
  eip := 0xFFF0#32
  eflags := 2
  pe := false
  cpl := 0
  paging := false
  cs := { selector := 0xF000#16, inv := resetHidden 0xFFFF0000#32 }
  ss := { selector := 0, inv := resetHidden 0 }
  ds := { selector := 0, inv := some (resetHidden 0) }
  es := { selector := 0, inv := some (resetHidden 0) }
  fs := { selector := 0, inv := some (resetHidden 0) }
  gs := { selector := 0, inv := some (resetHidden 0) }
  idtr := { base := 0, limit := 0x3FF#16 }
  gdtr := { base := 0, limit := 0 }
  ldtr := { base := 0, limit := 0 }
  tr := { base := 0, limit := 0, is386 := true }
  shutdown := false
  mem := []
  free := []
  pushed := []
  draws := 0

end Sys2Proof.Machine
end

