-- ==== Sys2Proof/Machine/Memory.lean ====
section
/-! DEFINITION. The memory primitives: one byte read and written, and the wider accesses built from them in
one place (rules R41, R43). A read has no side effect, no access has an alignment requirement (rule R42), and
every byte address is taken modulo 2^32. -/

namespace Sys2Proof.Machine

/-! ### Lists of address and value pairs -/

/-- The value listed for an address. -/
def assocFind {β : Type} (a : Nat) : List (Nat × β) → Option β
  | [] => none
  | (k, v) :: l => if k = a then some v else assocFind a l

/-- The list without the entries of an address. -/
def assocErase {β : Type} (a : Nat) (l : List (Nat × β)) : List (Nat × β) := l.filter (fun c => c.1 ≠ a)

/-- An entry put before the first entry whose address is greater. -/
def assocPlace {β : Type} (a : Nat) (v : β) : List (Nat × β) → List (Nat × β)
  | [] => [(a, v)]
  | (k, w) :: l => if a < k then (a, v) :: (k, w) :: l else (k, w) :: assocPlace a v l

/-- Addresses strictly rising and 32 bits wide. -/
abbrev AssocWf {β : Type} (l : List (Nat × β)) : Prop :=
  l.Pairwise (fun c d => c.1 < d.1) ∧ ∀ c ∈ l, c.1 < 2 ^ 32

/-- A strictly rising list of addresses with one more address in it. -/
def insertAddress (a : Nat) : List Nat → List Nat
  | [] => [a]
  | b :: l => if a < b then a :: b :: l else if a = b then b :: l else b :: insertAddress a l

/-- The canonical form of `State.pushed`: strictly rising 32-bit addresses. -/
abbrev AddressesWf (l : List Nat) : Prop := l.Pairwise (· < ·) ∧ ∀ a ∈ l, a < 2 ^ 32

/-! ### Memory as a list of cells -/

namespace Memory

/-- The byte listed at an address, or what an unlisted address reads as (log entry 2). -/
def read (m : Memory) (a : Nat) : Byte := (assocFind a m).getD Config.unlistedByte

/-- Memory with one byte stored: no entry is kept where the byte is what an unlisted address reads as. -/
def write (m : Memory) (a : Nat) (b : Byte) : Memory :=
  if b = Config.unlistedByte then assocErase a m else assocPlace a b (assocErase a m)

/-- The canonical form: addresses strictly rising and 32 bits wide, no entry equal to what an unlisted address
reads as. -/
abbrev wf (m : Memory) : Prop := AssocWf m ∧ ∀ c ∈ m, c.2 ≠ Config.unlistedByte

/-- The canonical memory that lists the cells of `cells`, a later cell over an earlier one. -/
def canonical (cells : List Host.Cell) : Memory :=
  cells.foldl (fun m c => write m (c.1 % 2 ^ 32) c.2) []

end Memory

/-! ### Reads and writes of the machine's memory -/

namespace State

/-- The byte at a linear address: a free value where an interrupt push left padding (rule R46), else the byte
that memory lists. -/
def byteAt (s : State) (a : Nat) : Byte :=
  match assocFind a s.free with
  | some draw => Config.freeByte draw
  | none => s.mem.read a

/-- A byte written at a linear address. -/
def setByte (s : State) (a : Nat) (v : Byte) : State :=
  { s with mem := s.mem.write a v, free := assocErase a s.free }

/-- A fresh free value left at a linear address (`draw` of rule R7). -/
def setFree (s : State) (a : Nat) : State :=
  { s with
    mem := assocErase a s.mem
    free := assocPlace a s.draws (assocErase a s.free)
    draws := s.draws + 1 }

/-- The canonical form of the free bytes: addresses strictly rising and 32 bits wide, none of them listed in
memory. -/
abbrev FreeWf (s : State) : Prop := AssocWf s.free ∧ ∀ c ∈ s.free, assocFind c.1 s.mem = none

/-- `MemRead(lin, 1)` (rule R43). -/
def read8 (s : State) (lin : DWord) : Byte := s.byteAt lin.toNat

/-- `MemRead(lin, 2)`: the byte at the lower address is the low half (rule R41). -/
def read16 (s : State) (lin : DWord) : Word := s.read8 (lin + 1) ++ s.read8 lin

/-- `MemRead(lin, 4)` (rules R41, R43). -/
def read32 (s : State) (lin : DWord) : DWord := s.read16 (lin + 2) ++ s.read16 lin

/-- `MemRead(lin, 8)` (rules R41, R43). -/
def read64 (s : State) (lin : DWord) : QWord := s.read32 (lin + 4) ++ s.read32 lin

/-- `MemWrite(lin, 1, v)` by a push: the address is remembered as one a push stored to (rules R43, R61). -/
def store8 (s : State) (lin : DWord) (v : Byte) : State :=
  { s.setByte lin.toNat v with pushed := insertAddress lin.toNat s.pushed }

/-- A byte of padding stored by a push (rule R46). -/
def storeFree8 (s : State) (lin : DWord) : State :=
  { s.setFree lin.toNat with pushed := insertAddress lin.toNat s.pushed }

/-- `MemWrite(lin, 2, v)` by a push, the low half at the lower address (rules R41, R43). -/
def store16 (s : State) (lin : DWord) (v : Word) : State :=
  (s.store8 lin (v.setWidth 8)).store8 (lin + 1) (v.extractLsb' 8 8)

/-- `MemWrite(lin, 4, v)` by a push (rules R41, R43). -/
def store32 (s : State) (lin : DWord) (v : DWord) : State :=
  (s.store16 lin (v.setWidth 16)).store16 (lin + 2) (v.extractLsb' 16 16)

/-- `MemWrite(lin, 4, PAD16 || v)` by a push: the word at the lower address, two fresh free bytes above it
(rule R46, decision D21). -/
def storePadded (s : State) (lin : DWord) (v : Word) : State :=
  ((s.store16 lin v).storeFree8 (lin + 2)).storeFree8 (lin + 3)

end State

/-- The `n` byte addresses of an access at `lin`, each modulo 2^32 (rule R43). -/
def span (lin : DWord) (n : Nat) : List Nat :=
  (List.range n).map (fun k => (lin + BitVec.ofNat 32 k).toNat)

end Sys2Proof.Machine
end

