-- ==== Sys2Proof/Machine/Flags.lean ====
section
/-! DEFINITION. EFLAGS: the places of the flags the page names (rule R11, from general knowledge there), their
accessors, and the flag changes of an entry to a handler (rules R103, R112, R114, R116). -/

namespace Sys2Proof.Machine

namespace Flags

/-- TF is bit 8 (rule R11). -/
def tfBit : Nat := 8
/-- IF is bit 9 (rule R11). -/
def ifBit : Nat := 9
/-- OF is bit 11 (rule R11). -/
def ofBit : Nat := 11
/-- IOPL is bits 13:12 (rule R17). -/
def ioplBit : Nat := 12
/-- NT is bit 14 (rule R11). -/
def ntBit : Nat := 14
/-- VM is bit 17 (rule R11). -/
def vmBit : Nat := 17

/-- The flags with one bit written to 0. -/
def clear (f : DWord) (n : Nat) : DWord := f &&& ~~~(1#32 <<< n)

/-- The bits that rule R11 says always read the same: 1, 3, 5, 15 and 31:18. -/
def fixedMask : DWord := 0xFFFC802A#32

/-- The always-reading bits hold what rule R11 says: bit 1 is 1, the others are 0. -/
abbrev FixedBits (f : DWord) : Prop := f &&& fixedMask = 2#32

/-- Entry in Real Address Mode: IF and TF become 0 (rule R103). -/
def afterRealEntry (f : DWord) : DWord := clear (clear f ifBit) tfBit

/-- Entry through an interrupt gate (`isInterrupt`) or a trap gate in Protected Mode: IF becomes 0 for an
interrupt gate only, TF and NT become 0 (rules R112, R116, R119). -/
def afterGateEntry (isInterrupt : Bool) (f : DWord) : DWord :=
  clear (clear (if isInterrupt then clear f ifBit else f) tfBit) ntBit

/-- Entry from Virtual 8086 Mode: VM and TF become 0, IF for an interrupt gate only; the block does not
mention NT (rule R114). -/
def afterV86Entry (isInterrupt : Bool) (f : DWord) : DWord :=
  let g := clear (clear f vmBit) tfBit
  if isInterrupt then clear g ifBit else g

end Flags

namespace State

/-- OF (rule R12). -/
def overflowFlag (s : State) : Bool := s.eflags.getLsbD Flags.ofBit
/-- IF (rule R13). -/
def interruptFlag (s : State) : Bool := s.eflags.getLsbD Flags.ifBit
/-- TF (rule R14). -/
def trapFlag (s : State) : Bool := s.eflags.getLsbD Flags.tfBit
/-- NT (rule R15). -/
def nestedTaskFlag (s : State) : Bool := s.eflags.getLsbD Flags.ntBit
/-- VM (rule R16). -/
def vmFlag (s : State) : Bool := s.eflags.getLsbD Flags.vmBit
/-- IOPL, 0 to 3 (rule R17). -/
def iopl (s : State) : Nat := (s.eflags.extractLsb' Flags.ioplBit 2).toNat
/-- FLAGS, the low half of EFLAGS (rule R11). -/
def flags16 (s : State) : Word := s.eflags.setWidth 16

end State

end Sys2Proof.Machine
end

