-- ==== Sys2Proof/Syntax.lean ====
section
/-! DEFINITION. The instructions in scope (rule R2): one constructor for each row of spec/opcode_table.json. -/

namespace Sys2Proof

/-- The three instructions of the page (rules R2, R69). They are three different instructions: `CC` is not
`CD 03`, and `CE` is not `CD 04` (rule R71). -/
inductive Instr where
  /-- `INT 3`, opcode `CC`: interrupt 3, trap to debugger (rule R81). -/
  | int3
  /-- `INT imm8`, opcode `CD ib`: the interrupt numbered by the immediate byte, an integer 0 to 255
  (rules R70, R82). -/
  | intImm8 (imm8 : Nat)
  /-- `INTO`, opcode `CE`: interrupt 4 if the overflow flag is 1 (rule R83). -/
  | into
  deriving DecidableEq, Repr

end Sys2Proof
end

