-- ==== Sys2Proof/Machine/Operands.lean ====
section
/-! DEFINITION. The operand forms (an immediate byte, or a number implied by the opcode), the modes, the
privilege level in force, and how a logical address becomes a linear one. -/

namespace Sys2Proof.Machine

/-- The interrupt number of `INT imm8`: the immediate byte, unsigned, not scaled (rule R70). A well-formed
instruction's immediate is below 256, so nothing is lost here. -/
def interruptNumber (imm8 : Nat) : Byte := BitVec.ofNat 8 imm8

/-- The interrupt number that `INT 3` implies (rules R70, R81). -/
def breakpointVector : Byte := 3#8

/-- The interrupt number that `INTO` implies (rules R70, R83). -/
def overflowVector : Byte := 4#8

/-- The operating modes (rules R19, R140). -/
inductive Mode where
  /-- Real Address Mode. -/
  | real
  /-- Protected Mode with VM = 0. -/
  | prot
  /-- Virtual 8086 Mode. -/
  | v86
  deriving DecidableEq, Repr

namespace State

/-- The mode as a function of PE and VM, PE first (rule R19). -/
def mode (s : State) : Mode :=
  if s.pe = false then .real else if s.vmFlag then .v86 else .prot

/-- PE = 0 with VM = 1: a state that is refused (rule R19, decision D12). -/
abbrev IllegalMode (s : State) : Prop := s.pe = false ∧ s.vmFlag = true

/-- The current privilege level in force: 0 in Real Address Mode, 3 in Virtual 8086 Mode, the CPL component in
Protected Mode (rule R24). -/
def privilege (s : State) : BitVec 2 :=
  match s.mode with
  | .real => 0#2
  | .v86 => 3#2
  | .prot => s.cpl

/-- SP, the low half of ESP (rule R22). -/
def sp (s : State) : Word := s.esp.setWidth 16

end State

/-- The base of a segment in Real Address Mode and Virtual 8086 Mode: selector * 16 (rule R44). -/
def realBase (selector : Word) : DWord := selector.setWidth 32 * 16#32

namespace State

/-- The base that instruction fetch uses (rule R80): CS.selector * 16 in Real Address Mode and Virtual 8086 Mode
(rule R44), the invisible base of CS in Protected Mode (rule R45). Log entry 7 says what follows after reset. -/
def codeBase (s : State) : DWord :=
  match s.mode with
  | .real => realBase s.cs.selector
  | .prot => s.cs.inv.base
  | .v86 => realBase s.cs.selector

/-- The base of the stack segment: SS.selector * 16 in Real Address Mode and Virtual 8086 Mode, the invisible
base in Protected Mode (rules R45, R46, decision D19). -/
def stackBase (s : State) : DWord :=
  match s.mode with
  | .real => realBase s.ss.selector
  | .prot => s.ss.inv.base
  | .v86 => realBase s.ss.selector

/-- Whether a push uses ESP (the B bit of SS) or SP; Real Address Mode and Virtual 8086 Mode use SP
(rule R46). -/
def stackWide (s : State) : Bool :=
  match s.mode with
  | .real => false
  | .prot => s.ss.inv.big
  | .v86 => false

/-- The offset of the stack top: ESP or SP (rule R46). -/
def stackOffset (s : State) : DWord :=
  if s.stackWide then s.esp else s.sp.setWidth 32

/-- The linear address of the stack top (rule R46). -/
def stackLinear (s : State) : DWord := s.stackBase + s.stackOffset

/-- The greatest offset of the code segment's size: FFFFH in a 16-bit code segment (Real Address Mode, Virtual
8086 Mode, or CS.D = 0), FFFFFFFFH in a 32-bit one (rule R85). -/
def codeTop (s : State) : Nat :=
  match s.mode with
  | .real => 0xFFFF
  | .prot => if s.cs.inv.big then 0xFFFFFFFF else 0xFFFF
  | .v86 => 0xFFFF

/-- `EIP + len` stays inside the offset range of the code segment's size (rule R85, decision D33). -/
abbrev NextFits (s : State) (len : Nat) : Prop := s.eip.toNat + len ≤ s.codeTop

/-- The offset of the instruction that follows one of `len` bytes (rule R85). -/
def nextEip (s : State) (len : Nat) : DWord := s.eip + BitVec.ofNat 32 len

end State

end Sys2Proof.Machine
end

