-- ==== Sys2Proof/Machine/Descriptors.lean ====
section
/-! DEFINITION. Selectors, gate and segment descriptors, the TSS, and the room tests: rules R47 to R54. The
layouts are the spec's, from general knowledge there (decisions D15, D26, D34, D35). -/

namespace Sys2Proof.Machine

/-! ### Selectors (rule R49) -/

namespace Selector

/-- The index, bits 15:3. -/
def index (sel : Word) : Nat := (sel.extractLsb' 3 13).toNat
/-- The local/global bit, bit 2: true is local. -/
def isLocal (sel : Word) : Bool := sel.getLsbD 2
/-- The requested privilege level, bits 1:0. -/
def rpl (sel : Word) : BitVec 2 := sel.setWidth 2
/-- A selector is null when bits 15:2 are 0. -/
abbrev IsNull (sel : Word) : Prop := sel.extractLsb' 2 14 = 0#14
/-- The selector with its RPL field replaced (`CS.selector[1:0] <- k`, rules R112, R116). -/
def withRpl (sel : Word) (k : BitVec 2) : Word := sel.extractLsb' 2 14 ++ k
/-- The selector with its two RPL bits 0: `sel AND FFFCH` (rule R106). -/
def base (sel : Word) : Word := sel &&& 0xFFFC#16

end Selector

/-- EXT as the number it adds to an error code (rules R106, R107). -/
def extBit (ext : Bool) : Word := if ext then 1#16 else 0#16

/-- `vector number * 8+2+EXT` (rule R106). -/
def vectorError (vector : Byte) (ext : Bool) : Word :=
  vector.setWidth 16 * 8#16 + 2#16 + extBit ext

/-- `selector+EXT`, read as `(selector AND FFFCH) OR EXT` (rule R106, decision D7). -/
def selectorError (sel : Word) (ext : Bool) : Word := Selector.base sel ||| extBit ext

/-! ### The access-rights byte (rule R52) -/

namespace Ar

/-- Bit 7, present. -/
def present (ar : Byte) : Bool := ar.getLsbD 7
/-- Bits 6:5, the descriptor privilege level. -/
def dpl (ar : Byte) : BitVec 2 := ar.extractLsb' 5 2
/-- `IsCode`: S = 1 and bit 3 = 1. -/
def isCode (ar : Byte) : Bool := ar.getLsbD 4 && ar.getLsbD 3
/-- `IsConforming`. -/
def isConforming (ar : Byte) : Bool := isCode ar && ar.getLsbD 2
/-- `IsWritableData`. -/
def isWritableData (ar : Byte) : Bool := ar.getLsbD 4 && !ar.getLsbD 3 && ar.getLsbD 1
/-- `IsExpandDown`. -/
def isExpandDown (ar : Byte) : Bool := ar.getLsbD 4 && !ar.getLsbD 3 && ar.getLsbD 2
/-- Bit 0, accessed. -/
def accessed (ar : Byte) : Bool := ar.getLsbD 0
/-- `IsAvailableTSS`: the open parameter of rule R5 (decision D16, log entry 11). -/
def isAvailableTss (ar : Byte) : Bool := Config.isAvailableTss ar

end Ar

/-! ### Gates (rule R51) -/

/-- Whether a gate transfers with 16-bit or with 32-bit offsets and pushes. -/
inductive GateSize where
  | bits16
  | bits32
  deriving DecidableEq, Repr

/-- The kinds of gate an IDT may hold. -/
inductive GateKind where
  | taskGate
  | interruptGate (size : GateSize)
  | trapGate (size : GateSize)
  deriving DecidableEq, Repr

/-- The five gate codes of AR[4:0]; anything else is no gate the IDT may hold (rule R51, decision D15). -/
def gateKind (ar : Byte) : Option GateKind :=
  let code := ar.extractLsb' 0 5
  if code = 0b00101#5 then some .taskGate
  else if code = 0b00110#5 then some (.interruptGate .bits16)
  else if code = 0b00111#5 then some (.trapGate .bits16)
  else if code = 0b01110#5 then some (.interruptGate .bits32)
  else if code = 0b01111#5 then some (.trapGate .bits32)
  else none

/-- The access-rights byte of a descriptor, bits 47:40 (rules R51, R52). -/
def descriptorAr (d : QWord) : Byte := d.extractLsb' 40 8

/-- The selector of a gate, bits 31:16 (rule R51). -/
def gateSelector (d : QWord) : Word := d.extractLsb' 16 16

/-- The offset of a gate: bits 63:48 and 15:0, and for a 16-bit gate bits 15:0 alone, zero-extended
(rule R51, decision D15). -/
def gateOffset (size : GateSize) (d : QWord) : DWord :=
  match size with
  | .bits16 => (d.extractLsb' 0 16).setWidth 32
  | .bits32 => d.extractLsb' 48 16 ++ d.extractLsb' 0 16

/-! ### Segment descriptors (rule R52) -/

/-- `limit_eff`: the 20-bit limit in bytes, or in units of 4096 bytes with the low bits 1. -/
def effectiveLimit (limit : BitVec 20) (granular : Bool) : DWord :=
  if granular then limit ++ 0xFFF#12 else limit.setWidth 32

/-- The segment descriptor that eight bytes hold, as the invisible portion keeps it. -/
def segmentDescriptor (d : QWord) : Hidden where
  base := d.extractLsb' 56 8 ++ d.extractLsb' 16 24
  limit := effectiveLimit (d.extractLsb' 48 4 ++ d.extractLsb' 0 16) (d.getLsbD 55)
  ar := descriptorAr d
  big := d.getLsbD 54

/-- The greatest offset of a stack or data segment by its B bit. -/
def segmentTop (h : Hidden) : Nat := if h.big then 0xFFFFFFFF else 0xFFFF

/-- `InSegment(seg, off, n)` (rule R52). -/
abbrev InSegment (h : Hidden) (off n : Nat) : Prop :=
  if Ar.isExpandDown h.ar then h.limit.toNat < off ∧ off + n - 1 ≤ segmentTop h
  else off + n - 1 ≤ h.limit.toNat

/-! ### The tables (rules R47, R48, R50) -/

namespace State

/-- The IDT entry of a vector lies wholly within the IDT limit in Protected Mode (rule R47, decision D34). -/
abbrev InIdt (s : State) (vector : Byte) : Prop :=
  vector.toNat * Config.idtEntryBytesProt + 7 ≤ s.idtr.limit.toNat

/-- The eight bytes of a protected-mode IDT entry (rules R47, R51). -/
def idtEntry (s : State) (vector : Byte) : QWord :=
  s.read64 (s.idtr.base + BitVec.ofNat 32 (vector.toNat * Config.idtEntryBytesProt))

/-- The IDT entry of a vector lies wholly within the IDT limit in Real Address Mode (rule R47, decision D20). -/
abbrev InRealIdt (s : State) (vector : Byte) : Prop :=
  vector.toNat * Config.idtEntryBytesReal + 3 ≤ s.idtr.limit.toNat

/-- The linear address of a real-mode IDT entry (rules R47, R48). -/
def realIdtLinear (s : State) (vector : Byte) : DWord :=
  s.idtr.base + BitVec.ofNat 32 (vector.toNat * Config.idtEntryBytesReal)

/-- `Table(sel)`: the GDT or the current LDT, by the local/global bit (rule R50, decision D31). -/
def table (s : State) (sel : Word) : TableReg := if Selector.isLocal sel then s.ldtr else s.gdtr

/-- `InLimits(sel)` (rule R50, decision D35). -/
abbrev InLimits (s : State) (sel : Word) : Prop :=
  Selector.index sel * 8 + 7 ≤ (s.table sel).limit.toNat

/-- The eight bytes `ReadDesc(sel)` reads (rule R50). -/
def descriptorBytes (s : State) (sel : Word) : QWord :=
  s.read64 ((s.table sel).base + BitVec.ofNat 32 (Selector.index sel * 8))

/-- `ReadDesc(sel)` as a segment descriptor (rules R50, R52). -/
def readSegment (s : State) (sel : Word) : Hidden := segmentDescriptor (s.descriptorBytes sel)

/-! ### The TSS (rule R53) -/

/-- The offset of the last byte of the level-`k` stack pair in the current TSS. -/
def tssStackEnd (s : State) (k : Nat) : Nat := if s.tr.is386 then 9 + 8 * k else 5 + 4 * k

/-- The fields of the level-`k` stack pair lie within the TSS limit (rule R53, decision D26). -/
abbrev InTss (s : State) (k : Nat) : Prop := s.tssStackEnd k ≤ s.tr.limit.toNat

/-- The level-`k` stack selector of the current TSS (rule R53). -/
def tssStackSelector (s : State) (k : Nat) : Word :=
  s.read16 (s.tr.base + BitVec.ofNat 32 (if s.tr.is386 then 8 + 8 * k else 4 + 4 * k))

/-- The level-`k` stack pointer of the current TSS; a 286 TSS supplies 16 bits, zero-extended (rule R53). -/
def tssStackPointer (s : State) (k : Nat) : DWord :=
  if s.tr.is386 then s.read32 (s.tr.base + BitVec.ofNat 32 (4 + 8 * k))
  else (s.read16 (s.tr.base + BitVec.ofNat 32 (2 + 4 * k))).setWidth 32

end State

/-! ### Stack room (rule R54) -/

/-- `top` of rule R54: the highest byte offset the pushes write; `wide` says that the stack pointer is ESP. -/
def roomTop (wide : Bool) (sp : DWord) : Nat :=
  if wide then (sp - 1#32).toNat else (sp.setWidth 16 - 1#16).toNat

/-- The lowest byte of `n` bytes of pushes is not below offset 0; otherwise the spec refuses (rule R54,
decision D22). -/
abbrev RoomNotWrapping (wide : Bool) (sp : DWord) (n : Nat) : Prop := n ≤ roomTop wide sp + 1

/-- `StackRoom(ss, sp, n)` where the pushes do not wrap: the `n` bytes below the stack pointer lie inside the
segment's valid offsets (rule R54). -/
abbrev StackRoom (ss : Hidden) (wide : Bool) (sp : DWord) (n : Nat) : Prop :=
  if Ar.isExpandDown ss.ar then ss.limit.toNat < roomTop wide sp + 1 - n
  else roomTop wide sp ≤ ss.limit.toNat

end Sys2Proof.Machine
end

