-- ==== Sys2Proof/Machine/Legal.lean ====
section
/-! DEFINITION. The legal machine states: the relations between components that the rules state or imply.
`Sys2Proof/Safety.lean` names the whole as the invariant of the claims. -/

namespace Sys2Proof.Machine

namespace State

/-- The privilege component agrees with the mode (rule R24): 0 in Real Address Mode, 3 in Virtual 8086 Mode,
and in Protected Mode the RPL of CS. -/
abbrev PrivilegeLegal (s : State) : Prop :=
  (s.mode = .real → s.cpl = 0#2) ∧ (s.mode = .prot → Selector.rpl s.cs.selector = s.cpl) ∧
    (s.mode = .v86 → s.cpl = 3#2)

end State

/-- A data segment register marked not usable holds a null selector (rules R23, R49). -/
abbrev DataSegReg.Legal (r : DataSegReg) : Prop := r.inv = none → Selector.IsNull r.selector

namespace State

/-- The registers of a running processor: no VM = 1 with PE = 0 (rule R19), the always-reading flag bits
(rule R11), the privilege level, the data segment registers. -/
abbrev RegistersLegal (s : State) : Prop :=
  ¬ s.IllegalMode ∧ Flags.FixedBits s.eflags ∧ s.PrivilegeLegal ∧
    (s.ds.Legal ∧ s.es.Legal ∧ s.fs.Legal ∧ s.gs.Legal)

/-- A legal machine state: memory, the free bytes and the list of pushed addresses in canonical form, and the registers legal
unless the processor has shut down (when every register holds any value, rule R30). -/
abbrev Legal (s : State) : Prop :=
  Memory.wf s.mem ∧ s.FreeWf ∧ AddressesWf s.pushed ∧ (s.shutdown = false → s.RegistersLegal)

end State

end Sys2Proof.Machine
end

