-- ==== Sys2Proof/Machine/Params.lean ====
section
/-! DEFINITION. The two open parameters whose types mention the machine's state. Both are constants with no
body: nothing can evaluate them, and a claim holds whatever they are. -/

namespace Sys2Proof

/-- `SwitchTasks` of rule R5: SWITCH-TASKS, which the page names and nowhere defines (rule R117, decision D17).
Its arguments are the state, the selector of the new TSS, and whether the switch nests; `none` says that no
switch is supplied for the case, and the delivery is then refused (log entry 12). -/
opaque Config.switchTasks : Machine.State → Word → Bool → Option Machine.State

/-- What every state component holds when the processor shuts down: any value (rule R30, decision D19). A free
value: the argument is the number of the draw (log entry 10). -/
opaque Config.stateAtShutdown : Nat → Machine.State

end Sys2Proof
end

