-- ==== Sys2Proof/Machine/Ops.lean ====
section
/-! DEFINITION. The named operations over memory and registers (pushes, rule R46), and TAKING AN INTERRUPT OR
EXCEPTION as one shared operation: `deliver` is the procedure `Deliver` of rules R100 to R119, block by block,
`raiseException` and `interrupt` what rule R131 makes of a raised exception. The return from an exception is
`IRET`, which the spec leaves out (rules R4, R137). -/

namespace Sys2Proof.Machine

/-! ### Pushes (rule R46) -/

namespace State

/-- ESP after the stack pointer went down by `n` bytes: ESP modulo 2^32, or SP modulo 2^16 with ESP[31:16]
unchanged (rule R46). -/
def loweredEsp (s : State) (n : Nat) : DWord :=
  if s.stackWide then s.esp - BitVec.ofNat 32 n
  else s.esp.extractLsb' 16 16 ++ (s.sp - BitVec.ofNat 16 n)

/-- The stack pointer lowered by `n` bytes (rule R46). -/
def lowerStack (s : State) (n : Nat) : State := { s with esp := s.loweredEsp n }

/-- `Push16(v)` (rule R46). -/
def push16 (v : Word) (s : State) : State :=
  let t := s.lowerStack 2
  t.store16 t.stackLinear v

/-- `Push32(v)` (rule R46). -/
def push32 (v : DWord) (s : State) : State :=
  let t := s.lowerStack 4
  t.store32 t.stackLinear v

/-- `Push32(PAD16 || v)`: a word padded to two words, the upper half a fresh free value (rule R46,
decision D21, log entry 3). -/
def pushPadded (v : Word) (s : State) : State :=
  let t := s.lowerStack 4
  t.storePadded t.stackLinear v

/-! ### The register updates of the transfers -/

/-- SS and the stack pointer loaded. -/
def withStack (ss : SegReg) (esp : DWord) (s : State) : State := { s with ss := ss, esp := esp }

/-- CS and EIP loaded. -/
def withCode (cs : SegReg) (eip : DWord) (s : State) : State := { s with cs := cs, eip := eip }

/-- `Set CPL ...; Set RPL of CS to CPL` (rule R112). -/
def withPrivilege (k : BitVec 2) (s : State) : State :=
  { s with cpl := k, cs := { s.cs with selector := Selector.withRpl s.cs.selector k } }

/-- The flags changed by one of the entries of Sys2Proof/Machine/Flags.lean. -/
def mapFlags (f : DWord → DWord) (s : State) : State := { s with eflags := f s.eflags }

/-- `GS := 0; FS := 0; DS := 0; ES := 0` (rule R114): null selectors, the invisible portions marked not usable
(rule R23). -/
def withNullDataSegments (s : State) : State :=
  let null : DataSegReg := { selector := 0#16, inv := none }
  { s with ds := null, es := null, fs := null, gs := null }

/-! ### Shutdown (rule R30) -/

/-- The processor shuts down: `shutdown` is set and every other component of the machine holds any value
(rules R30, R104, decision D19, log entry 10). The model's own fields go on: no padding is left, the pushed
addresses stay, one more draw is counted. -/
def enterShutdown (s : State) : State :=
  let any := Config.stateAtShutdown s.draws
  { any with
    shutdown := true
    mem := Memory.canonical any.mem
    free := []
    pushed := s.pushed
    draws := s.draws + 1 }

end State

/-! ### The inputs and the outcomes of a delivery (rules R101, R131) -/

/-- The four exceptions of the procedure (rules R130, R133). -/
inductive Exc where
  /-- #TS, invalid TSS. -/
  | ts
  /-- #NP, segment not present. -/
  | np
  /-- #SS, stack exception. -/
  | ss
  /-- #GP, general protection. -/
  | gp
  deriving DecidableEq, Repr

/-- The vector number of an exception (rule R133, decision D8). -/
def Exc.vector : Exc → Byte
  | .ts => 10#8
  | .np => 11#8
  | .ss => 12#8
  | .gp => 13#8

/-- What `Deliver` takes besides the machine state (rule R101). -/
structure Event where
  /-- The interrupt number. -/
  vector : Byte
  /-- Caused by INT n, INT 3 or INTO. -/
  software : Bool
  /-- The error code, if the event has one. -/
  errcode : Option Word
  /-- The term EXT of error codes (rule R107). -/
  ext : Bool
  /-- The return location's selector. -/
  retSelector : Word
  /-- The return location's offset. -/
  retOffset : DWord
  /-- This delivery is itself of an exception. -/
  nested : Bool
  deriving DecidableEq, Repr

/-- How a delivery ends: exactly one of the four of rule R101. -/
inductive Delivery where
  /-- A completed transfer. -/
  | transferred (t : State)
  /-- The processor shut down. -/
  | shutDown (t : State)
  /-- An exception raised in state `t`, with its error code. -/
  | raised (t : State) (e : Exc) (code : Word)
  /-- A case without meaning. -/
  | refused (r : Refusal)

/-- Why a block of checks does not pass. -/
inductive Stop where
  | raise (e : Exc) (code : Word)
  | refuse (r : Refusal)
  deriving DecidableEq, Repr

/-- `p must hold, else st` (rule R7): nothing after a failed check is done. -/
def require (p : Prop) [Decidable p] (st : Stop) : Except Stop Unit :=
  if p then .ok () else .error st

/-- Go on with what the checks found, or end the delivery as the failed check says; a check changes no state
(rule R135). -/
def passing {α : Type} (s : State) (checks : Except Stop α) (k : α → Delivery) : Delivery :=
  match checks with
  | .ok a => k a
  | .error (.raise e code) => .raised s e code
  | .error (.refuse r) => .refused r

/-! ### REAL-ADDRESS-MODE (rules R103, R104) -/

/-- Load CS and IP from a real-mode IDT entry, read from memory as it stands after the pushes (rule R103);
the invisible base becomes selector * 16 (rule R44). -/
def loadRealEntry (vector : Byte) (s : State) : State :=
  let e := s.realIdtLinear vector
  let selector := s.read16 (e + 2)
  s.withCode { selector := selector, inv := { s.cs.inv with base := realBase selector } }
    ((s.read16 e).setWidth 32)

/-- The three pushes of rule R103: FLAGS, then, with IF and TF cleared, the return location. -/
def realPushed (ev : Event) (s : State) : State :=
  let s1 := (s.push16 s.flags16).mapFlags Flags.afterRealEntry
  (s1.push16 ev.retSelector).push16 (ev.retOffset.setWidth 16)

/-- The transfer of rule R103: push FLAGS, clear IF and TF, push the return location, load CS:IP. An error
code is ignored. -/
def realTransfer (ev : Event) (s : State) : State := loadRealEntry ev.vector (realPushed ev s)

/-- SP = 1, 3 or 5: insufficient stack space (rule R104). -/
abbrev ShutdownStack (s : State) : Prop := s.sp = 1#16 ∨ s.sp = 3#16 ∨ s.sp = 5#16

/-- REAL-ADDRESS-MODE (rules R103, R104, decisions D19, D20): it raises nothing. -/
def deliverReal (ev : Event) (s : State) : Delivery :=
  if s.ss.inv.big = true then .refused .realModeWideStack
  else if ShutdownStack s then .shutDown s.enterShutdown
  else if ¬ s.InRealIdt ev.vector then .refused .realModeVectorBeyondLimit
  else .transferred (realTransfer ev s)

/-! ### PROTECTED-MODE (rule R105) -/

/-- The five checks of rule R105 on the IDT entry, in the page's order: limit, type, privilege (software
interrupts only), presence. -/
def gateChecks (ev : Event) (s : State) : Except Stop GateKind := do
  let code := vectorError ev.vector ev.ext
  require (s.InIdt ev.vector) (.raise .gp code)
  let ar := descriptorAr (s.idtEntry ev.vector)
  match gateKind ar with
  | none => .error (.raise .gp code)
  | some kind =>
    require (ev.software = true → s.privilege ≤ Ar.dpl ar) (.raise .gp code)
    require (Ar.present ar = true) (.raise .np code)
    pure kind

/-! ### TRAP-GATE-OR-INTERRUPT-GATE (rules R109, R110, R113) -/

/-- Where a trap or interrupt gate leads: what the blocks after rule R109 read of it. -/
structure Target where
  /-- The gate's CS selector. -/
  selector : Word
  /-- The gate's offset (rule R51). -/
  offset : DWord
  /-- The gate's size. -/
  size : GateSize
  /-- An interrupt gate clears IF, a trap gate does not (rule R119). -/
  isInterrupt : Bool
  /-- The code segment's descriptor. -/
  code : Hidden
  deriving DecidableEq, Repr

/-- What the interrupt or trap gate of a vector names (rules R50, R51). -/
def gateTarget (s : State) (vector : Byte) (size : GateSize) (isInterrupt : Bool) : Target :=
  let d := s.idtEntry vector
  { selector := gateSelector d
    offset := gateOffset size d
    size := size
    isInterrupt := isInterrupt
    code := s.readSegment (gateSelector d) }

/-- The checks 1 to 4 of rule R109 on the gate's CS selector and its descriptor; the descriptor counts only
once the selector is within its table. -/
def codeChecks (ev : Event) (s : State) (t : Target) : Except Stop Unit := do
  require (¬ Selector.IsNull t.selector) (.raise .gp (extBit ev.ext))
  require (s.InLimits t.selector) (.raise .gp (selectorError t.selector ev.ext))
  require (Ar.isCode t.code.ar = true) (.raise .gp (selectorError t.selector ev.ext))
  require (Ar.present t.code.ar = true) (.raise .np (selectorError t.selector ev.ext))

/-- The three paths of a trap or interrupt gate. -/
inductive Path where
  | inner
  | same
  | fromV86
  deriving DecidableEq, Repr

/-- The choice of path: the rows of rule R110, and rule R113 where VM = 1. -/
def choosePath (ev : Event) (s : State) (t : Target) : Except Stop Path :=
  let conforming := Ar.isConforming t.code.ar
  let d := Ar.dpl t.code.ar
  if conforming = false ∧ d < s.privilege then
    if s.vmFlag = true then
      if d = 0#2 ∧ t.size = .bits32 then .ok .fromV86 else .error (.refuse .v86NotToLevelZero)
    else .ok .inner
  else if d ≤ s.privilege then
    if s.vmFlag = true then .error (.refuse .v86NotToLevelZero) else .ok .same
  else if conforming = true then .error (.refuse .conformingSegmentAboveCpl)
  else .error (.raise .gp (selectorError t.selector ev.ext))

/-- `E`: the bytes of the error-code push, by the size of the gate (rule R132, decision D14). -/
def errorBytes (ev : Event) (size : GateSize) : Nat :=
  match ev.errcode, size with
  | none, _ => 0
  | some _, .bits16 => 2
  | some _, .bits32 => 4

/-- Push the error code, if any, at the width of the gate (rule R132). -/
def pushError (ev : Event) (size : GateSize) (s : State) : State :=
  match ev.errcode, size with
  | none, _ => s
  | some code, .bits16 => s.push16 code
  | some code, .bits32 => s.pushPadded code

/-- Push a long pointer, selector first: two words, or three padded to four (rule R46). -/
def pushPointer (size : GateSize) (selector : Word) (offset : DWord) (s : State) : State :=
  match size with
  | .bits16 => (s.push16 selector).push16 (offset.setWidth 16)
  | .bits32 => (s.pushPadded selector).push32 offset

/-- Push FLAGS or EFLAGS by the size of the gate (rule R46). -/
def pushFlags (size : GateSize) (flags : DWord) (s : State) : State :=
  match size with
  | .bits16 => s.push16 (flags.setWidth 16)
  | .bits32 => s.push32 flags

/-! ### INTERRUPT-TO-INNER-PRIVILEGE (rules R111, R112) -/

/-- The new stack that the current TSS supplies. -/
structure NewStack where
  selector : Word
  pointer : DWord
  inv : Hidden
  deriving DecidableEq, Repr

/-- The checks 1 to 8 of rule R111 for the level-`k` stack and `need` bytes of room (the error code counted),
then the accessed bits of both descriptors (decision D23). -/
def stackChecks (ev : Event) (s : State) (t : Target) (k : BitVec 2) (need : Nat) :
    Except Stop NewStack := do
  require (s.InTss k.toNat) (.refuse .tssBeyondLimit)
  let nss := s.tssStackSelector k.toNat
  let nsp := s.tssStackPointer k.toNat
  require (¬ Selector.IsNull nss) (.raise .gp (extBit ev.ext))
  require (s.InLimits nss) (.raise .ts (selectorError nss ev.ext))
  require (Selector.rpl nss = k) (.raise .ts (selectorError nss ev.ext))
  let d := s.readSegment nss
  require (Ar.dpl d.ar = k) (.raise .ts (selectorError nss ev.ext))
  require (Ar.isWritableData d.ar = true) (.raise .ts (selectorError nss ev.ext))
  require (Ar.present d.ar = true) (.raise .ss (selectorError nss ev.ext))
  require (RoomNotWrapping d.big nsp need) (.refuse .stackPointerWraps)
  require (StackRoom d d.big nsp need) (.raise .ss 0#16)
  require (InSegment t.code t.offset.toNat 1) (.raise .gp 0#16)
  require (Ar.accessed t.code.ar = true ∧ Ar.accessed d.ar = true) (.refuse .accessedBitClear)
  pure { selector := nss, pointer := nsp, inv := d }

/-- The bytes the inner path pushes apart from an error code: 20 or 10 (rule R111). -/
def innerBytes : GateSize → Nat
  | .bits16 => 10
  | .bits32 => 20

/-- The state change of rule R112: the new stack and CS:EIP are loaded, the old stack, the old flags and the
return location are pushed on the new stack, then the error code; CPL and CS.RPL become the new level. -/
def innerTransfer (ev : Event) (t : Target) (n : NewStack) (s : State) : State :=
  let s1 := (s.withStack { selector := n.selector, inv := n.inv } n.pointer).withCode
    { selector := t.selector, inv := t.code } t.offset
  let s2 := pushPointer t.size s.ss.selector s.esp s1
  let s3 := pushFlags t.size s.eflags s2
  let s4 := pushPointer t.size ev.retSelector ev.retOffset s3
  let s5 := pushError ev t.size s4
  (s5.withPrivilege (Ar.dpl t.code.ar)).mapFlags (Flags.afterGateEntry t.isInterrupt)

/-! ### INTERRUPT-FROM-V86-MODE (rules R113, R114) -/

/-- The bytes the Virtual 8086 Mode path pushes apart from an error code: nine doublewords (rule R114). -/
def v86Bytes : Nat := 36

/-- NT = 0 on entry, then the checks of rule R111 for level 0 and 36 bytes (rule R114, decision D12). -/
def v86Checks (ev : Event) (s : State) (t : Target) : Except Stop NewStack := do
  require (s.nestedTaskFlag = false) (.refuse .v86NestedTaskSet)
  stackChecks ev s t 0#2 (v86Bytes + errorBytes ev t.size)

/-- `Push(GS) ... Push(ES)`, each padded to two words, then the four registers set to 0 (rule R114). -/
def pushDataSegments (s : State) : State :=
  ((((s.pushPadded s.gs.selector).pushPadded s.fs.selector).pushPadded s.ds.selector).pushPadded
    s.es.selector).withNullDataSegments

/-- The state change of rule R114: VM and TF cleared, the level 0 stack loaded, GS, FS, DS and ES pushed and
set to 0, the old stack, the old flags and the return location pushed, CS:EIP loaded at CPL 0. -/
def v86Transfer (ev : Event) (t : Target) (n : NewStack) (s : State) : State :=
  let s1 := (s.mapFlags (Flags.afterV86Entry t.isInterrupt)).withStack
    { selector := n.selector, inv := n.inv } n.pointer
  let s2 := pushPointer .bits32 s.ss.selector s.esp (pushDataSegments s1)
  let s3 := pushFlags .bits32 s.eflags s2
  let s4 := pushPointer .bits32 ev.retSelector ev.retOffset s3
  pushError ev t.size
    ((s4.withCode { selector := t.selector, inv := t.code } t.offset).withPrivilege 0#2)

/-! ### INTERRUPT-TO-SAME-PRIVILEGE-LEVEL (rules R115, R116) -/

/-- The bytes the same-level path pushes apart from an error code: 12 or 6 (rule R115, decision D13). -/
def sameBytes : GateSize → Nat
  | .bits16 => 6
  | .bits32 => 12

/-- The checks of rule R115, then the accessed bit of the code segment's descriptor (decision D23). -/
def sameChecks (ev : Event) (s : State) (t : Target) : Except Stop Unit := do
  let need := sameBytes t.size + errorBytes ev t.size
  require (RoomNotWrapping s.ss.inv.big s.esp need) (.refuse .stackPointerWraps)
  require (StackRoom s.ss.inv s.ss.inv.big s.esp need) (.raise .ss 0#16)
  require (InSegment t.code t.offset.toNat 1) (.raise .gp 0#16)
  require (Ar.accessed t.code.ar = true) (.refuse .accessedBitClear)

/-- The state change of rule R116: flags and return location pushed on the current stack, CS:EIP loaded with
CS.RPL = CPL, then the error code. -/
def sameTransfer (ev : Event) (t : Target) (s : State) : State :=
  let s1 := pushFlags t.size s.eflags s
  let s2 := pushPointer t.size ev.retSelector ev.retOffset s1
  let s3 := s2.withCode { selector := Selector.withRpl t.selector s.privilege, inv := t.code } t.offset
  (pushError ev t.size s3).mapFlags (Flags.afterGateEntry t.isInterrupt)

/-! ### The gate paths together -/

/-- TRAP-GATE-OR-INTERRUPT-GATE and the block it leads to; no block runs on into the next (rule R118). -/
def throughGate (ev : Event) (s : State) (size : GateSize) (isInterrupt : Bool) : Delivery :=
  let t := gateTarget s ev.vector size isInterrupt
  passing s (codeChecks ev s t) fun _ =>
    passing s (choosePath ev s t) fun path =>
      match path with
      | .inner =>
        passing s (stackChecks ev s t (Ar.dpl t.code.ar) (innerBytes size + errorBytes ev size)) fun n =>
          .transferred (innerTransfer ev t n s)
      | .fromV86 =>
        passing s (v86Checks ev s t) fun n => .transferred (v86Transfer ev t n s)
      | .same =>
        passing s (sameChecks ev s t) fun _ => .transferred (sameTransfer ev t s)

/-! ### TASK-GATE (rule R117) -/

/-- Steps 1 to 4 of rule R117 on the selector of the TSS; the error codes are without EXT. -/
def taskChecks (s : State) (t : Word) : Except Stop Unit := do
  let code := Selector.base t
  require (Selector.isLocal t = false) (.raise .ts code)
  require (Selector.index t * 8 + 7 ≤ s.gdtr.limit.toNat) (.raise .ts code)
  let ar := descriptorAr (s.descriptorBytes t)
  require (Ar.isAvailableTss ar = true) (.raise .ts code)
  require (Ar.present ar = true) (.raise .np code)

/-- Step 6 of rule R117: the new task's stack has room for two more bytes. -/
def taskRoomChecks (s : State) : Except Stop Unit := do
  require (RoomNotWrapping s.stackWide s.esp 2) (.refuse .stackPointerWraps)
  require (StackRoom s.ss.inv s.stackWide s.esp 2) (.raise .ss 0#16)

/-- Step 7 of rule R117: the new EIP lies inside the new CS limit. -/
def enterTask (s : State) : Delivery :=
  passing s (require (InSegment s.cs.inv s.eip.toNat 1) (.raise .gp 0#16)) fun _ => .transferred s

/-- Steps 6 and 7 of rule R117, in the new task: the room for two bytes of error code and its push, then the
instruction pointer inside the CS limit. Both raise after the task switch (rule R135), so in the new task's
state. -/
def finishTask (ev : Event) (s : State) : Delivery :=
  match ev.errcode with
  | none => enterTask s
  | some code => passing s (taskRoomChecks s) fun _ => enterTask (s.push16 code)

/-- The new task's state `u` that SWITCH-TASKS supplies, with the model's own records carried on from the old
task's state. DESIGN CHOICE (log entry 12), since the spec leaves SWITCH-TASKS undefined: the addresses that
interrupt pushes stored to outlive the switch (rules R61, R174), and the count of draws does not go back (rule R46).
Which bytes of the new memory are free is part of the memory that the parameter supplies. -/
def State.afterSwitch (s u : State) : State := { u with pushed := s.pushed, draws := max s.draws u.draws }

/-- TASK-GATE (rule R117). SWITCH-TASKS is the parameter `Config.switchTasks`; where it supplies no switch, or
answers no legal running state with paging off, the delivery is refused (decision D17, log entry 12). The pushed
addresses and the count of draws, which are the model's own, are not the parameter's: they outlive the switch
(`State.afterSwitch`, DESIGN CHOICE, log entry 12). -/
def throughTaskGate (ev : Event) (s : State) : Delivery :=
  let t := gateSelector (s.idtEntry ev.vector)
  passing s (taskChecks s t) fun _ =>
    match Config.switchTasks s t true with
    | none => .refused .switchTasksUndefined
    | some v =>
      let u := s.afterSwitch v
      if u.Legal ∧ u.shutdown = false ∧ u.paging = false then finishTask ev u
      else .refused .switchTasksUndefined

/-- PROTECTED-MODE (rule R105), for VM = 0 and VM = 1 alike (rule R102). -/
def deliverProtected (ev : Event) (s : State) : Delivery :=
  passing s (gateChecks ev s) fun kind =>
    match kind with
    | .taskGate => throughTaskGate ev s
    | .interruptGate size => throughGate ev s size true
    | .trapGate size => throughGate ev s size false

/-! ### The whole procedure (rules R100 to R102, R131) -/

/-- `Deliver`: one procedure for software interrupts, external interrupts and exceptions (rule R100),
dispatched on PE (rule R102). Paging and PE = 0 with VM = 1 are refused (rules R55, R19). -/
def deliver (ev : Event) (s : State) : Delivery :=
  if s.paging = true then .refused .pagingEnabled
  else if s.IllegalMode then .refused .vm86WithoutProtection
  else if s.pe = false then deliverReal ev s
  else deliverProtected ev s

/-- The event that a raised exception is (rule R131): its vector, not software, EXT = 1, nested, and as the return
location CS:EIP of `origin`, the state in which the delivery began. For the three instructions that is the
instruction itself, for every exception of the delivery, after a task switch too (decision D5). DESIGN CHOICE where no
instruction is executing: for a raise while an external interrupt is delivered it is the next instruction to execute
(log entry 24). -/
def exceptionEvent (e : Exc) (code : Word) (origin : State) : Event where
  vector := e.vector
  software := false
  errcode := some code
  ext := true
  retSelector := origin.cs.selector
  retOffset := origin.eip
  nested := true

/-- `raise #E(code)` in state `s`, by what began in state `origin`: the exception is delivered by a new run of
`Deliver`; if that raises, the case is refused (rule R131, decision D9). -/
def raiseException (e : Exc) (code : Word) (origin s : State) : Host.Outcome State Fault Refusal :=
  match deliver (exceptionEvent e code origin) s with
  | .transferred t => .next t
  | .shutDown t => .next t
  | .refused r => .refused r
  | .raised _ _ _ => .refused .exceptionDuringException

/-- TAKING AN INTERRUPT OR EXCEPTION: `Deliver`, and a raised exception delivered in its turn, once
(rule R131, decision D9). -/
def interrupt (ev : Event) (s : State) : Host.Outcome State Fault Refusal :=
  match deliver ev s with
  | .transferred t => .next t
  | .shutDown t => .next t
  | .refused r => .refused r
  | .raised t e code =>
    if ev.nested = true then .refused .exceptionDuringException else raiseException e code s t

/-! ### The front end of the three instructions (rule R80) -/

/-- The event a software interrupt is: no error code, EXT = 0, the return location the next instruction
(rules R84, R85). -/
def softwareEvent (vector : Byte) (s : State) (len : Nat) : Event where
  vector := vector
  software := true
  errcode := none
  ext := false
  retSelector := s.cs.selector
  retOffset := s.nextEip len
  nested := false

/-- `SoftInt(n, len)` (rule R80). -/
def softInt (vector : Byte) (len : Nat) (s : State) : Host.Outcome State Fault Refusal :=
  interrupt (softwareEvent vector s len) s

/-- What keeps the processor from executing any instruction: shutdown (rule R30), and the states the spec
refuses: paging (rule R55), PE = 0 with VM = 1 (rule R19), TF = 1 (decision D28). -/
def blocked (s : State) : Option (Host.Outcome State Fault Refusal) :=
  if s.shutdown = true then some (.fault .shutdown)
  else if s.paging = true then some (.refused .pagingEnabled)
  else if s.IllegalMode then some (.refused .vm86WithoutProtection)
  else if s.trapFlag = true then some (.refused .trapFlagSet)
  else none

/-- An instruction of `len` bytes: the checks every instruction in scope begins with, then its own effect. -/
def execute (len : Nat) (s : State) (effect : Host.Outcome State Fault Refusal) :
    Host.Outcome State Fault Refusal :=
  match blocked s with
  | some o => o
  | none => if s.NextFits len then effect else .refused .instructionPointerWraps

end Sys2Proof.Machine
end

