-- ==== Sys2Proof/Machine/Interrupt.lean ====
section
/-! DEFINITION. The meanings of the three instructions (rules R80 to R90). -/

namespace Sys2Proof.Machine

/-- `INT 3` (rule R81): interrupt 3. In Virtual 8086 Mode it is exempt from the IOPL check (rule R86). -/
def execInt3 (s : State) : Host.Outcome State Fault Refusal :=
  execute 1 s (softInt breakpointVector 1 s)

/-- `INT imm8` (rule R82): the interrupt the immediate byte numbers; in Virtual 8086 Mode with IOPL less than 3
it raises #GP(0) instead (rule R86). -/
def execIntImm8 (imm8 : Nat) (s : State) : Host.Outcome State Fault Refusal :=
  execute 2 s
    (if s.mode = .v86 ∧ s.iopl < 3 then raiseException .gp 0#16 s s else softInt (interruptNumber imm8) 2 s)

/-- `INTO` (rule R83): interrupt 4 if OF = 1, else EIP advances by 1 and nothing else changes. -/
def execInto (s : State) : Host.Outcome State Fault Refusal :=
  execute 1 s
    (if s.overflowFlag = true then softInt overflowVector 1 s else .next { s with eip := s.nextEip 1 })

end Sys2Proof.Machine
end

