-- ==== Sys2Proof/Machine/Dispatch.lean ====
section
/-! DEFINITION. One arm per instruction, each a direct call of its meaning. -/

namespace Sys2Proof.Machine

def exec (i : Instr) (s : State) : Host.Outcome State Fault Refusal :=
  match i with
  | .int3 => Sys2Proof.Machine.execInt3 s
  | .intImm8 imm8 => Sys2Proof.Machine.execIntImm8 imm8 s
  | .into => Sys2Proof.Machine.execInto s

end Sys2Proof.Machine
end

