-- ==== Sys2Proof/WellFormed.lean ====
section
/-! DEFINITION. Which terms of `Instr` stand for an instruction of the machine. -/

namespace Sys2Proof

/-- An instruction is well-formed when its immediate is a number 0 to 255 (rule R70); `INT 3` and `INTO` have
no operand. -/
def Instr.wellFormed : Instr → Bool
  | .int3 => true
  | .intImm8 imm8 => decide (imm8 < Config.vectorCount)
  | .into => true

end Sys2Proof
end

