-- ==== Sys2Proof/Decode.lean ====
section
/-! DEFINITION. The decoder (rules R65 to R74), total on any bytes, the encoder written from the same opcode
map (rule R69), and the reading of an opcode-table word. -/

namespace Sys2Proof

/-- Why bytes stand for no instruction of this model; neither reason is an illegal-instruction exception
(rule R73). -/
inductive DecodeReject where
  /-- The first byte is none of CC, CD and CE: another opcode or a form with leading modifier bytes
  (rules R73, R74, decision D1). -/
  | unknownOpcode (opcode : Byte)
  /-- No byte, or `CD` without its immediate byte. -/
  | truncated
  deriving DecidableEq, Repr

/-- The opcode byte of `INT 3` (rule R69). -/
def opcodeInt3 : Byte := 0xCC#8

/-- The opcode byte of `INT imm8` (rule R69). -/
def opcodeIntImm8 : Byte := 0xCD#8

/-- The opcode byte of `INTO` (rule R69). -/
def opcodeInto : Byte := 0xCE#8

/-- Decode the bytes at CS:EIP, lowest address first: the instruction and the bytes after it. The first byte
alone tells the length (rule R65); the immediate is unsigned (rule R70). -/
def decode : List Byte → Except DecodeReject (Instr × List Byte)
  | [] => .error .truncated
  | op :: rest =>
    if op = opcodeInt3 then .ok (.int3, rest)
    else if op = opcodeInto then .ok (.into, rest)
    else if op = opcodeIntImm8 then
      match rest with
      | [] => .error .truncated
      | imm8 :: rest' => .ok (.intImm8 imm8.toNat, rest')
    else .error (.unknownOpcode op)

/-- The bytes of a well-formed instruction, lowest address first (formats OP and OP-ib, rules R66, R67). -/
def encode : Instr → List Byte
  | .int3 => [opcodeInt3]
  | .intImm8 imm8 => [opcodeIntImm8, BitVec.ofNat 8 imm8]
  | .into => [opcodeInto]

/-- The length of an instruction in bytes: 1 for `CC` and `CE`, 2 for `CD ib` (rules R65, R80). -/
def Instr.length : Instr → Nat
  | .int3 => 1
  | .intImm8 _ => 2
  | .into => 1

/-- The bytes of an opcode-table word: bits 7..0 are the first byte, bits 15..8 the second, and every bit
above `nbits` is 0. Two bytes are as many as the longest instruction has. -/
def tableBytes (nbits w : Nat) : List Byte :=
  let v := w % 2 ^ nbits
  [BitVec.ofNat 8 v, BitVec.ofNat 8 (v / 256)]

/-- The instruction the decoder reads from an opcode-table word. -/
def decodeTableWord (nbits w : Nat) : Option Instr :=
  match decode (tableBytes nbits w) with
  | .ok (i, _) => some i
  | .error _ => none

end Sys2Proof
end

