-- ==== Sys2Proof/Machine/Fetch.lean ====
section
/-! DEFINITION. Fetching an instruction's bytes at CS:EIP (rules R65, R80, R61), and placing bytes there. -/

namespace Sys2Proof.Machine

namespace State

/-- The linear address of the byte `k` of the instruction at CS:EIP (rules R44, R45, R65). -/
def fetchLinear (s : State) (k : Nat) : DWord := s.codeBase + (s.eip + BitVec.ofNat 32 k)

/-- The two bytes at CS:EIP, as memory stands when the instruction begins (rule R61). -/
def fetchBytes (s : State) : List Byte :=
  [s.read8 (s.fetchLinear 0), s.read8 (s.fetchLinear 1)]

/-- The first `n` bytes at CS:EIP lie inside the CS limit (rule R80, decision D33). -/
abbrev FetchInLimit (s : State) (n : Nat) : Prop := InSegment s.cs.inv s.eip.toNat n

/-- None of the first `n` bytes at CS:EIP was stored by an interrupt push (rule R61, decision D25). -/
abbrev FetchNotPushed (s : State) (n : Nat) : Prop := ∀ k < n, (s.fetchLinear k).toNat ∉ s.pushed

end State

/-- The instruction at CS:EIP, or the refusal: a byte outside the CS limit, an unknown opcode, a byte that an
interrupt push stored. -/
def fetchInstr (s : State) : Except Refusal Instr :=
  if ¬ s.FetchInLimit 1 then .error .fetchBeyondLimit
  else match decode s.fetchBytes with
    | .error (.unknownOpcode op) => .error (.unknownOpcode op)
    | .error .truncated => .error .fetchBeyondLimit
    | .ok (i, _) =>
      if ¬ s.FetchInLimit i.length then .error .fetchBeyondLimit
      else if ¬ s.FetchNotPushed i.length then .error .executesPushedBytes
      else .ok i

/-- The state with the given bytes standing from byte `k` of the instruction at CS:EIP on, and none of them
counted as stored by a push. -/
def placeBytes (s : State) (k : Nat) : List Byte → State
  | [] => s
  | b :: rest =>
    let a := (s.fetchLinear k).toNat
    placeBytes { s.setByte a b with pushed := s.pushed.filter (fun c => c ≠ a) } (k + 1) rest

end Sys2Proof.Machine
end

