-- ==== Sys2Proof/Machine/Step.lean ====
section
/-! DEFINITION. One step: what blocks the processor, the fetch, the decoded instruction. -/

namespace Sys2Proof.Machine

/-- One instruction (rule R80). -/
def step (s : State) : Host.Outcome State Fault Refusal :=
  match blocked s with
  | some o => o
  | none =>
    match fetchInstr s with
    | .error r => .refused r
    | .ok i => exec i s

/-- The state with an opcode-table word standing at CS:EIP, where `step` fetches. -/
def State.withFetchWord (s : State) (nbits w : Nat) : State := placeBytes s 0 (tableBytes nbits w)

end Sys2Proof.Machine
end

