-- ==== Sys2Proof/Machine/Events.lean ====
section
/-! DEFINITION. The events that no instruction in scope causes: external interrupts and the exceptions the
80386 raises elsewhere. The model has no source of them (decision D29), so `step` calls nothing here; a larger
model may call these between instructions (rules R100, R136). -/

namespace Sys2Proof.Machine

/-- The event an external interrupt is: not software, no error code, EXT = 1, the return location the next
instruction to execute (rule R136). -/
def externalEvent (vector : Byte) (s : State) : Event where
  vector := vector
  software := false
  errcode := none
  ext := true
  retSelector := s.cs.selector
  retOffset := s.eip
  nested := false

/-- An external interrupt arriving between instructions: delivered when IF = 1, not taken when IF = 0
(rule R136); a processor in shutdown takes none (rule R30). -/
def externalInterrupt (vector : Byte) (s : State) : Host.Outcome State Fault Refusal :=
  if s.shutdown = true then .fault .shutdown
  else if s.interruptFlag = true then interrupt (externalEvent vector s) s
  else .next s

/-- An exception that the machine raises elsewhere, given by its vector, its error code if it has one, and the
return location its cause saves (rules R100, R101): only its delivery is in scope (rule R4). -/
def foreignException (vector : Byte) (errcode : Option Word) (retSelector : Word) (retOffset : DWord)
    (s : State) : Host.Outcome State Fault Refusal :=
  if s.shutdown = true then .fault .shutdown
  else interrupt
    { vector := vector, software := false, errcode := errcode, ext := true, retSelector := retSelector,
      retOffset := retOffset, nested := true } s

end Sys2Proof.Machine
end

