-- ==== Sys2Proof/Machine/Timing.lean ====
section
/-! DEFINITION. The clock counts of the page, transcribed (rules R176, R177). Timing is not behaviour
(rule R175, decision D30): nothing of the machine depends on this file. -/

namespace Sys2Proof.Machine

/-- The timing cases of the Clocks column (rule R176). -/
inductive ClockCase where
  /-- Real Address Mode, the interrupt made. -/
  | real
  /-- Protected Mode, same privilege. -/
  | samePrivilege
  /-- Protected Mode, more privilege. -/
  | morePrivilege
  /-- From V86 mode to PL 0. -/
  | fromV86
  /-- Protected Mode, via task gate. -/
  | taskGate
  /-- `INTO` with OF = 0, in either mode. -/
  | notTaken
  deriving DecidableEq, Repr

/-- An entry of the Clocks column: a count, or `ts`, the count of a task switch. -/
inductive ClockCount where
  | clocks (n : Nat)
  | ts
  deriving DecidableEq, Repr

/-- The Clocks column (rule R176); `none` where the page has no row. -/
def clockCount : Instr → ClockCase → Option ClockCount
  | .int3, .real => some (.clocks 33)
  | .int3, .samePrivilege => some (.clocks 59)
  | .int3, .morePrivilege => some (.clocks 99)
  | .int3, .fromV86 => some (.clocks 119)
  | .int3, .taskGate => some .ts
  | .int3, .notTaken => none
  | .intImm8 _, .real => some (.clocks 37)
  | .intImm8 _, .samePrivilege => some (.clocks 59)
  | .intImm8 _, .morePrivilege => some (.clocks 99)
  | .intImm8 _, .fromV86 => some (.clocks 119)
  | .intImm8 _, .taskGate => some .ts
  | .intImm8 _, .notTaken => none
  | .into, .real => some (.clocks 35)
  | .into, .samePrivilege => some (.clocks 59)
  | .into, .morePrivilege => some (.clocks 99)
  | .into, .fromV86 => some (.clocks 119)
  | .into, .taskGate => some .ts
  | .into, .notTaken => some (.clocks 3)

/-- The kinds of task of the ts table (rule R177). -/
inductive TaskKind where
  /-- 386 TSS, VM = 0. -/
  | tss386
  /-- 386 TSS, VM = 1. -/
  | tss386Vm
  /-- 286 TSS. -/
  | tss286
  deriving DecidableEq, Repr

/-- The approximate values of ts, from the old task's kind and the new task's (rule R177). -/
def taskSwitchClocks : TaskKind → TaskKind → Nat
  | .tss386, .tss386 => 309
  | .tss386, .tss386Vm => 226
  | .tss386, .tss286 => 282
  | .tss386Vm, .tss386 => 314
  | .tss386Vm, .tss386Vm => 231
  | .tss386Vm, .tss286 => 287
  | .tss286, .tss386 => 307
  | .tss286, .tss386Vm => 224
  | .tss286, .tss286 => 280

end Sys2Proof.Machine
end

