-- ==== Sys2Proof/Safety.lean ====
section
/-! DEFINITION. What counts as a safe run, in the terms the claims use. -/

namespace Sys2Proof.Machine

/-- The invariant of the machine: the state is a legal machine state (Sys2Proof/Machine/Legal.lean). -/
def MachineInv (s : State) : Prop := s.Legal

/-- A step ends safely: in a state that meets the invariant, in shutdown's fault, or in a refusal (about which
nothing is claimed). -/
def SafeOutcome (o : Host.Outcome State Fault Refusal) : Prop := ∀ t, o = .next t → MachineInv t

/-- The processor may execute an instruction of `len` bytes: it is not in shutdown, paging is off, the mode is
legal, TF = 0, and the successor's address fits (rules R19, R30, R55, R85, decision D28). -/
structure Runnable (s : State) (len : Nat) : Prop where
  running : s.shutdown = false
  noPaging : s.paging = false
  legalMode : ¬ s.IllegalMode
  noTrap : s.trapFlag = false
  fits : s.NextFits len

/-- The interrupt an instruction makes in a state: 3, the immediate byte, or 4 if OF = 1; none for `INTO` with
OF = 0, nor for `INT imm8` in Virtual 8086 Mode with IOPL less than 3 (rules R80, R86). -/
def interruptOf (s : State) : Instr → Option Byte
  | .int3 => some 3#8
  | .intImm8 imm8 => if s.mode = .v86 ∧ s.iopl < 3 then none else some (BitVec.ofNat 8 imm8)
  | .into => if s.overflowFlag = true then some 4#8 else none

/-! ### What a delivery needs (rule R172) -/

/-- A real-mode delivery of a vector can complete: PE = 0, a 16-bit stack (decision D19), SP not 1, 3 or 5, the
entry below the IDT limit (decision D20). -/
structure RealReady (s : State) (vector : Byte) : Prop where
  mode : s.pe = false
  narrow : s.ss.inv.big = false
  stack : s.sp ≠ 1#16 ∧ s.sp ≠ 3#16 ∧ s.sp ≠ 5#16
  inIdt : vector.toNat * 4 + 3 ≤ s.idtr.limit.toNat

/-- The kind of a gate of the given size, interrupt or trap. -/
def GateKind.through (size : GateSize) (isInterrupt : Bool) : GateKind :=
  if isInterrupt then .interruptGate size else .trapGate size

/-- The IDT entry of the event's vector is a present gate of the given kind, within the limit, which a software
interrupt has the privilege to use (rule R105). -/
structure GateOpen (ev : Event) (s : State) (kind : GateKind) : Prop where
  mode : s.pe = true
  noPaging : s.paging = false
  inIdt : ev.vector.toNat * 8 + 7 ≤ s.idtr.limit.toNat
  kind : gateKind (descriptorAr (s.idtEntry ev.vector)) = some kind
  privileged : ev.software = true → s.privilege ≤ Ar.dpl (descriptorAr (s.idtEntry ev.vector))
  present : Ar.present (descriptorAr (s.idtEntry ev.vector)) = true

/-- The gate's selector names a present code segment (rule R109). -/
structure CodeOpen (s : State) (t : Target) : Prop where
  notNull : ¬ Selector.IsNull t.selector
  inLimits : s.InLimits t.selector
  isCode : Ar.isCode t.code.ar = true
  present : Ar.present t.code.ar = true

/-- The current stack has room for `need` bytes, the handler's first byte lies in the code segment, whose
descriptor is marked accessed (rule R115, decision D23). -/
structure SameReady (s : State) (t : Target) (need : Nat) : Prop where
  noWrap : RoomNotWrapping s.ss.inv.big s.esp need
  room : StackRoom s.ss.inv s.ss.inv.big s.esp need
  inCode : InSegment t.code t.offset.toNat 1
  accessed : Ar.accessed t.code.ar = true

/-- The new stack that the current TSS supplies for level `k` passes every check of rule R111, `need` bytes fit,
the handler's first byte lies in the code segment, and both descriptors are marked accessed (decision D23). -/
structure StackReady (s : State) (t : Target) (k : BitVec 2) (need : Nat) (n : NewStack) : Prop where
  inTss : s.InTss k.toNat
  selector : s.tssStackSelector k.toNat = n.selector
  pointer : s.tssStackPointer k.toNat = n.pointer
  notNull : ¬ Selector.IsNull n.selector
  inLimits : s.InLimits n.selector
  rpl : Selector.rpl n.selector = k
  descriptor : s.readSegment n.selector = n.inv
  dpl : Ar.dpl n.inv.ar = k
  writable : Ar.isWritableData n.inv.ar = true
  present : Ar.present n.inv.ar = true
  noWrap : RoomNotWrapping n.inv.big n.pointer need
  room : StackRoom n.inv n.inv.big n.pointer need
  inCode : InSegment t.code t.offset.toNat 1
  codeAccessed : Ar.accessed t.code.ar = true
  stackAccessed : Ar.accessed n.inv.ar = true

/-! ### What a handler finds on its stack (rule R89) -/

/-- The width in bytes of one push through a gate: a word, or a doubleword (rules R46, R132). -/
def GateSize.bytes : GateSize → Nat
  | .bits16 => 2
  | .bits32 => 4

/-- What a push of the width of the gate keeps of a 32-bit value: all of it, or its low word. -/
def GateSize.clip : GateSize → DWord → DWord
  | .bits16, v => (v.setWidth 16).setWidth 32
  | .bits32, v => v

/-- One entry of a handler's stack: a value pushed whole, or a selector or error code, whose upper half, where
the push is four bytes wide, is any value (rule R46). -/
inductive Slot where
  | value (v : DWord)
  | word (w : Word)

/-- The linear address of entry `k` of the stack, counted from the stack pointer upward. -/
def State.slotLinear (s : State) (size : GateSize) (k : Nat) : DWord :=
  s.stackLinear + BitVec.ofNat 32 (k * size.bytes)

/-- Entry `k` of the stack holds what the slot says. -/
def SlotHolds (s : State) (size : GateSize) (k : Nat) : Slot → Prop
  | .value v =>
    match size with
    | .bits16 => (s.read16 (s.slotLinear size k)).setWidth 32 = size.clip v
    | .bits32 => s.read32 (s.slotLinear size k) = v
  | .word w => s.read16 (s.slotLinear size k) = w

/-- The stack holds the given entries at (E)SP upward, as the table of rule R89 lists them. -/
def HandlerStack (s : State) (size : GateSize) (slots : List Slot) : Prop :=
  ∀ k x, slots[k]? = some x → SlotHolds s size k x

/-- The linear address of word `k` of a real-mode stack, counted from SP upward, SP wrapping modulo 2^16
(rules R44, R46). -/
def State.realSlot (s : State) (k : Nat) : DWord :=
  realBase s.ss.selector + (s.sp + BitVec.ofNat 16 (2 * k)).setWidth 32

/-- The slots that the error code of an event takes: one, or none. -/
def errorSlots (ev : Event) : List Slot :=
  match ev.errcode with
  | none => []
  | some code => [.word code]

/-- A stack pointer lowered by `n` bytes: ESP modulo 2^32, or SP modulo 2^16 with ESP[31:16] unchanged
(rule R46). -/
def lowered (wide : Bool) (esp : DWord) (n : Nat) : DWord :=
  if wide then esp - BitVec.ofNat 32 n
  else esp.extractLsb' 16 16 ++ (esp.setWidth 16 - BitVec.ofNat 16 n)

/-- Every byte of memory is unchanged except the `n` bytes that start at `lin`. -/
def OnlyStored (s t : State) (lin : DWord) (n : Nat) : Prop :=
  ∀ a, a ∉ span lin n → t.byteAt a = s.byteAt a

end Sys2Proof.Machine
end

