-- ==== Sys2Proof/Certificates/Slice0/Obligations.lean ====
section
/-! DEFINITION. The statements for the provers, and the predicates they are made of: what the state holds after
each kind of entry to a handler, the conditions under which each path is taken, and the statements themselves,
from the numbered rules of the spec. -/

namespace Sys2Proof.Machine

/-! ### What an entry to a handler leaves -/

/-- The flags at the listed bits are 0, every other bit is as before. -/
def FlagsCleared (bits : List Nat) (f g : DWord) : Prop :=
  ∀ k, g.getLsbD k = if k ∈ bits then false else f.getLsbD k

/-- The flags a gate clears in Protected Mode: TF (8), NT (14), and IF (9) for an interrupt gate only
(rules R112, R116, R119). -/
def gateFlags (isInterrupt : Bool) : List Nat := if isInterrupt then [8, 9, 14] else [8, 14]

/-- The flags a gate clears on the way out of Virtual 8086 Mode: TF (8), VM (17), and IF (9) for an interrupt gate
only (rule R114). -/
def v86Flags (isInterrupt : Bool) : List Nat := if isInterrupt then [8, 9, 17] else [8, 17]

/-- The state of a handler entered in Real Address Mode (rules R89, R103): IP, CS and FLAGS stand on the stack from SP
upward, every other byte of memory is unchanged, CS:EIP is the vector's entry as memory holds it after the pushes,
IF and TF are 0, and nothing else has changed. -/
structure RealEntered (vector : Byte) (retSelector : Word) (retOffset : DWord) (s t : State) : Prop where
  pointer : t.esp = s.esp.extractLsb' 16 16 ++ (s.sp - 6#16)
  returnIp : t.read16 (t.realSlot 0) = retOffset.setWidth 16
  returnCs : t.read16 (t.realSlot 1) = retSelector
  image : t.read16 (t.realSlot 2) = s.eflags.setWidth 16
  memory : ∀ a, (∀ k < 3, a ∉ span (t.realSlot k) 2) → t.byteAt a = s.byteAt a
  selector : t.cs.selector = t.read16 (s.idtr.base + BitVec.ofNat 32 (vector.toNat * 4) + 2)
  hidden : t.cs.inv = { s.cs.inv with base := t.cs.selector.setWidth 32 * 16#32 }
  offset : t.eip = (t.read16 (s.idtr.base + BitVec.ofNat 32 (vector.toNat * 4))).setWidth 32
  flags : FlagsCleared [8, 9] s.eflags t.eflags
  others : t = { s with
    esp := t.esp, eip := t.eip, eflags := t.eflags, cs := t.cs, mem := t.mem, free := t.free,
    pushed := t.pushed, draws := t.draws }

/-- The state of a handler entered at the same privilege level (rules R89, R116, R132): from the stack pointer upward the error
code if any, the return location and the old flags; CPL and SS unchanged. -/
structure SameEntered (ev : Event) (g : Target) (s t : State) : Prop where
  pointer : t.esp = lowered s.ss.inv.big s.esp ((3 + (errorSlots ev).length) * g.size.bytes)
  stack : HandlerStack t g.size
    (errorSlots ev ++ [.value ev.retOffset, .word ev.retSelector, .value s.eflags])
  memory : OnlyStored s t t.stackLinear ((3 + (errorSlots ev).length) * g.size.bytes)
  code : t.cs = { selector := Selector.withRpl g.selector s.cpl, inv := g.code }
  offset : t.eip = g.offset
  flags : FlagsCleared (gateFlags g.isInterrupt) s.eflags t.eflags
  others : t = { s with
    esp := t.esp, eip := t.eip, eflags := t.eflags, cs := t.cs, mem := t.mem, free := t.free,
    pushed := t.pushed, draws := t.draws }

/-- The state of a handler entered at an inner privilege level (rules R89, R112, R132): the new stack holds the error code if any,
the return location, the old flags and the old stack pointer; CPL and the RPL of CS are the new level. -/
structure InnerEntered (ev : Event) (g : Target) (n : NewStack) (s t : State) : Prop where
  pointer : t.esp = lowered n.inv.big n.pointer ((5 + (errorSlots ev).length) * g.size.bytes)
  stack : HandlerStack t g.size
    (errorSlots ev ++ [.value ev.retOffset, .word ev.retSelector, .value s.eflags, .value s.esp,
      .word s.ss.selector])
  memory : OnlyStored s t t.stackLinear ((5 + (errorSlots ev).length) * g.size.bytes)
  newStack : t.ss = { selector := n.selector, inv := n.inv }
  code : t.cs = { selector := Selector.withRpl g.selector (Ar.dpl g.code.ar), inv := g.code }
  offset : t.eip = g.offset
  level : t.cpl = Ar.dpl g.code.ar
  flags : FlagsCleared (gateFlags g.isInterrupt) s.eflags t.eflags
  others : t = { s with
    esp := t.esp, eip := t.eip, eflags := t.eflags, cpl := t.cpl, cs := t.cs, ss := t.ss, mem := t.mem,
    free := t.free, pushed := t.pushed, draws := t.draws }

/-- The state of a handler entered from Virtual 8086 Mode (rules R89, R114, R132): the level 0 stack holds the error code if any,
the return location, the old flags, the old stack pointer and the four data segment selectors; the data segment
registers are null and unusable; CPL is 0. -/
structure V86Entered (ev : Event) (g : Target) (n : NewStack) (s t : State) : Prop where
  pointer : t.esp = lowered n.inv.big n.pointer ((9 + (errorSlots ev).length) * 4)
  stack : HandlerStack t .bits32
    (errorSlots ev ++ [.value ev.retOffset, .word ev.retSelector, .value s.eflags, .value s.esp,
      .word s.ss.selector, .word s.es.selector, .word s.ds.selector, .word s.fs.selector,
      .word s.gs.selector])
  memory : OnlyStored s t t.stackLinear ((9 + (errorSlots ev).length) * 4)
  newStack : t.ss = { selector := n.selector, inv := n.inv }
  code : t.cs = { selector := Selector.withRpl g.selector 0#2, inv := g.code }
  offset : t.eip = g.offset
  level : t.cpl = 0#2
  flags : FlagsCleared (v86Flags g.isInterrupt) s.eflags t.eflags
  nullDs : t.ds = { selector := 0#16, inv := none }
  nullEs : t.es = { selector := 0#16, inv := none }
  nullFs : t.fs = { selector := 0#16, inv := none }
  nullGs : t.gs = { selector := 0#16, inv := none }
  others : t = { s with
    esp := t.esp, eip := t.eip, eflags := t.eflags, cpl := t.cpl, cs := t.cs, ss := t.ss, ds := t.ds,
    es := t.es, fs := t.fs, gs := t.gs, mem := t.mem, free := t.free, pushed := t.pushed, draws := t.draws }

/-! ### When each path is taken and passes every check (rule R172) -/

/-- The event reaches INTERRUPT-TO-SAME-PRIVILEGE-LEVEL and passes its checks (rules R105, R109, R110, R115). -/
structure SamePath (ev : Event) (s : State) (size : GateSize) (isInterrupt : Bool) : Prop where
  gate : GateOpen ev s (GateKind.through size isInterrupt)
  code : CodeOpen s (gateTarget s ev.vector size isInterrupt)
  notV86 : s.vmFlag = false
  level : Ar.dpl (gateTarget s ev.vector size isInterrupt).code.ar ≤ s.privilege
  chosen : Ar.isConforming (gateTarget s ev.vector size isInterrupt).code.ar = true ∨
    Ar.dpl (gateTarget s ev.vector size isInterrupt).code.ar = s.privilege
  ready : SameReady s (gateTarget s ev.vector size isInterrupt) ((3 + (errorSlots ev).length) * size.bytes)

/-- The event reaches INTERRUPT-TO-INNER-PRIVILEGE and passes its checks for the new stack `n`
(rules R105, R109, R110, R111). -/
structure InnerPath (ev : Event) (s : State) (size : GateSize) (isInterrupt : Bool) (n : NewStack) : Prop where
  gate : GateOpen ev s (GateKind.through size isInterrupt)
  code : CodeOpen s (gateTarget s ev.vector size isInterrupt)
  notV86 : s.vmFlag = false
  nonConforming : Ar.isConforming (gateTarget s ev.vector size isInterrupt).code.ar = false
  level : Ar.dpl (gateTarget s ev.vector size isInterrupt).code.ar < s.privilege
  ready : StackReady s (gateTarget s ev.vector size isInterrupt)
    (Ar.dpl (gateTarget s ev.vector size isInterrupt).code.ar) ((5 + (errorSlots ev).length) * size.bytes) n

/-- The event reaches INTERRUPT-FROM-V86-MODE and passes its checks for the level 0 stack `n`
(rules R105, R109, R113, R114). -/
structure V86Path (ev : Event) (s : State) (isInterrupt : Bool) (n : NewStack) : Prop where
  gate : GateOpen ev s (GateKind.through .bits32 isInterrupt)
  code : CodeOpen s (gateTarget s ev.vector .bits32 isInterrupt)
  inV86 : s.vmFlag = true
  notNested : s.nestedTaskFlag = false
  nonConforming : Ar.isConforming (gateTarget s ev.vector .bits32 isInterrupt).code.ar = false
  level : Ar.dpl (gateTarget s ev.vector .bits32 isInterrupt).code.ar = 0#2
  ready : StackReady s (gateTarget s ev.vector .bits32 isInterrupt) 0#2 ((9 + (errorSlots ev).length) * 4) n

/-- The event is delivered to a handler by one of the four paths that are no task switch. -/
def HandlerEntered (ev : Event) (s t : State) : Prop :=
  (RealReady s ev.vector ∧ RealEntered ev.vector ev.retSelector ev.retOffset s t) ∨
    (∃ size b, SamePath ev s size b ∧ SameEntered ev (gateTarget s ev.vector size b) s t) ∨
    (∃ size b n, InnerPath ev s size b n ∧ InnerEntered ev (gateTarget s ev.vector size b) n s t) ∨
    (∃ b n, V86Path ev s b n ∧ V86Entered ev (gateTarget s ev.vector .bits32 b) n s t)

/-- No entry of the IDT is a task gate (a task switch may change everything, rule R117; decision D17). -/
def NoTaskGates (s : State) : Prop :=
  s.pe = true → ∀ vector : Byte, s.InIdt vector →
    gateKind (descriptorAr (s.idtEntry vector)) ≠ some .taskGate

/-! ### The events -/

/-- A software interrupt by an instruction of `len` bytes (rules R84, R85, R101). -/
def bySoftware (vector : Byte) (len : Nat) (s : State) : Event where
  vector := vector
  software := true
  errcode := none
  ext := false
  retSelector := s.cs.selector
  retOffset := s.eip + BitVec.ofNat 32 len
  nested := false

/-- A raised exception (rules R131, R133): vectors 10, 11, 12, 13; the return location is the instruction that was
executing. -/
def byException (e : Exc) (code : Word) (s : State) : Event where
  vector := match e with
    | .ts => 10#8
    | .np => 11#8
    | .ss => 12#8
    | .gp => 13#8
  software := false
  errcode := some code
  ext := true
  retSelector := s.cs.selector
  retOffset := s.eip
  nested := true

/-- The event whose handler an instruction ends in: none for `INTO` with OF = 0; #GP(0) where the check of rule R86
turns `INT imm8` away; else the instruction's own interrupt, or the exception that the delivery of it raises
(rule R131). -/
def enteredEvent (i : Instr) (s : State) : Option Event :=
  match interruptOf s i with
  | some n =>
    match deliver (bySoftware n i.length s) s with
    | .raised _ e code => some (byException e code s)
    | _ => some (bySoftware n i.length s)
  | none => if i = .into then none else some (byException .gp 0#16 s)

/-- The bytes that an entry through a gate of the given size pushes, by the path (rules R111, R114, R115, R132): nine,
five or three pushes of the width of the gate, and one more for an error code. -/
def gateBytes (ev : Event) (s : State) (size : GateSize) : Nat :=
  let code := s.readSegment (gateSelector (s.idtEntry ev.vector))
  ((if s.vmFlag = true then 9
    else if Ar.isConforming code.ar = false ∧ Ar.dpl code.ar < s.privilege then 5
    else 3) + (errorSlots ev).length) * size.bytes

/-- The bytes that an entry through the vector's interrupt or trap gate pushes. -/
def entryBytes (ev : Event) (s : State) : Nat :=
  match gateKind (descriptorAr (s.idtEntry ev.vector)) with
  | some (.interruptGate size) => gateBytes ev s size
  | some (.trapGate size) => gateBytes ev s size
  | _ => 0

/-- `(selector AND FFFCH) OR EXT` (rule R106, decision D7). -/
def selectorCode (selector : Word) (ext : Bool) : Word :=
  (selector &&& 0xFFFC#16) ||| (if ext then 1#16 else 0#16)

/-- `vector * 8 + 2 + EXT` (rule R106). -/
def vectorCode (vector : Byte) (ext : Bool) : Word :=
  BitVec.ofNat 16 (vector.toNat * 8 + 2 + (if ext then 1 else 0))

/-- The outcome that the checks 1 to 8 of rule R111 give for the level-`k` stack of the current TSS, in their order,
with the refusals of decisions D22 and D23 where the MODEL puts them (log entry 14), then what follows when all
pass. -/
def newStackOutcome (ev : Event) (s : State) (g : Target) (k : BitVec 2) (need : Nat)
    (done : NewStack → Delivery) : Delivery :=
  let selector := s.tssStackSelector k.toNat
  let pointer := s.tssStackPointer k.toNat
  let d := s.readSegment selector
  let code := selectorCode selector ev.ext
  if Selector.IsNull selector then .raised s .gp (if ev.ext then 1#16 else 0#16)
  else if ¬ s.InLimits selector then .raised s .ts code
  else if selector.setWidth 2 ≠ k then .raised s .ts code
  else if Ar.dpl d.ar ≠ k then .raised s .ts code
  else if Ar.isWritableData d.ar = false then .raised s .ts code
  else if Ar.present d.ar = false then .raised s .ss code
  else if ¬ RoomNotWrapping d.big pointer need then .refused .stackPointerWraps
  else if ¬ StackRoom d d.big pointer need then .raised s .ss 0#16
  else if ¬ InSegment g.code g.offset.toNat 1 then .raised s .gp 0#16
  else if Ar.accessed g.code.ar = false ∨ Ar.accessed d.ar = false then .refused .accessedBitClear
  else done { selector := selector, pointer := pointer, inv := d }

end Sys2Proof.Machine

open Sys2Proof Sys2Proof.Machine

/-! ### Decoding -/

/-- The words of the opcode map (rule R69) and of the vectors E1 to E9, bit by bit, decode to the instructions they
stand for. -/
def Obligations.SpecWordsDecode : Prop :=
  decode [0b11001100#8] = .ok (.int3, []) ∧
    decode [0b11001101#8, 0b00000000#8] = .ok (.intImm8 0, []) ∧
    decode [0b11001101#8, 0b11111111#8] = .ok (.intImm8 255, []) ∧
    decode [0b11001101#8, 0b00000011#8] = .ok (.intImm8 3, []) ∧
    decode [0b11001101#8, 0b00000100#8] = .ok (.intImm8 4, []) ∧
    decode [0b11001101#8, 0b11001100#8] = .ok (.intImm8 0xCC, []) ∧
    decode [0b11001101#8, 0b11001110#8] = .ok (.intImm8 0xCE, []) ∧
    decode [0b11001110#8] = .ok (.into, []) ∧
    decode [0x90#8] = .error (.unknownOpcode 0x90#8) ∧
    decode [0xF0#8, 0xCC#8] = .error (.unknownOpcode 0xF0#8) ∧
    decode [0x66#8, 0xCD#8, 0x21#8] = .error (.unknownOpcode 0x66#8)

/-- Decoding and encoding agree, both ways and whatever bytes follow: the decoder reads a well-formed instruction
exactly from its own bytes, with the immediate at every value 0 to 255 (rules R65 to R70). -/
def Obligations.DecodeEncodeAgree : Prop :=
  ∀ (i : Instr) (bytes rest : List Byte),
    decode bytes = .ok (i, rest) ↔ i.wellFormed = true ∧ bytes = encode i ++ rest

/-- Every first byte other than CC, CD and CE is refused by name, by the decoder and by a step (rules R73, R74,
decision D1). -/
def Obligations.OtherOpcodesRefused : Prop :=
  ∀ op : Byte, op ≠ 0xCC#8 → op ≠ 0xCD#8 → op ≠ 0xCE#8 →
    (∀ rest, decode (op :: rest) = .error (.unknownOpcode op)) ∧
      ∀ s : State, s.shutdown = false → s.paging = false → ¬ s.IllegalMode → s.trapFlag = false →
        s.FetchInLimit 1 → s.read8 (s.codeBase + s.eip) = op → step s = .refused (.unknownOpcode op)

/-! ### Reset and the invariant -/

/-- The state after reset: the values of the last column of rule R32, which the spec marks as general knowledge and
as a suggested default (decision D24). The MODEL'S CHOICE (log entry 6). The first fetch is at 000FFFF0H, as
rule R44 gives it for F000:FFF0; that the base FFFF0000H has no part in it is log entry 7 (DEDUCED), and the 0 of
memory is log entry 2 (DESIGN CHOICE). -/
def Obligations.ResetState : Prop :=
  let s := State.reset
  s.eflags = 2#32 ∧ s.pe = false ∧ s.cpl = 0#2 ∧ s.shutdown = false ∧ s.eip = 0xFFF0#32 ∧
    s.cs.selector = 0xF000#16 ∧ s.cs.inv.base = 0xFFFF0000#32 ∧ s.cs.inv.limit = 0xFFFF#32 ∧
    s.ss.selector = 0#16 ∧ s.ss.inv.base = 0#32 ∧ s.ss.inv.limit = 0xFFFF#32 ∧
    (∀ r ∈ [s.ds, s.es, s.fs, s.gs], r.selector = 0#16 ∧
      ∃ h, r.inv = some h ∧ h.base = 0#32 ∧ h.limit = 0xFFFF#32) ∧
    s.idtr = { base := 0#32, limit := 0x3FF#16 } ∧ s.mode = .real ∧
    s.codeBase + s.eip = 0x000FFFF0#32 ∧ ∀ a, s.byteAt a = 0#8

/-- The state after reset meets the invariant. The reset state is the MODEL'S CHOICE (log entry 6: PRESUMED and DESIGN
CHOICE; decision D24 leaves it open). -/
def Obligations.ResetMeetsInvariant : Prop := MachineInv State.reset

/-- THE INVARIANT: every step keeps the state legal, whatever the instruction, the mode, the tables and the memory:
memory, the free bytes and the pushed addresses in canonical form, no VM = 1 with PE = 0, the always-reading flag
bits, CPL in agreement with the mode and with the RPL of CS (rules R11, R19, R23, R24, R43). -/
def Obligations.StepKeepsInvariant : Prop :=
  ∀ s t : State, MachineInv s → step s = .next t → MachineInv t

/-- An external interrupt or an exception delivered from outside keeps the state legal as well (rules R100, R136). -/
def Obligations.OutsideEventsKeepInvariant : Prop :=
  ∀ (s t : State) (vector : Byte) (code : Option Word) (selector : Word) (offset : DWord), MachineInv s →
    (externalInterrupt vector s = .next t ∨ foreignException vector code selector offset s = .next t) → MachineInv t

/-! ### One step -/

/-- A STEP RUNS THE DECODED INSTRUCTION: when the two bytes at CS:EIP decode to `i`, whose bytes lie inside the CS
limit and were not stored by an interrupt push, a processor that nothing blocks does what `exec` says of `i`
(rules R65, R80). -/
def Obligations.StepRunsDecodedInstruction : Prop :=
  ∀ (s : State) (i : Instr) (rest : List Byte),
    s.shutdown = false → s.paging = false → ¬ s.IllegalMode → s.trapFlag = false →
    decode [s.read8 (s.codeBase + s.eip), s.read8 (s.codeBase + (s.eip + 1#32))] = .ok (i, rest) →
    s.FetchInLimit i.length →
    (∀ k < i.length, (s.codeBase + (s.eip + BitVec.ofNat 32 k)).toNat ∉ s.pushed) →
    step s = exec i s

/-- A step stops by name where an instruction's bytes reach beyond the CS limit (rule R80, decision D33) or were
stored by an interrupt push (rule R61, decision D25). -/
def Obligations.FetchStops : Prop :=
  ∀ s : State, s.shutdown = false → s.paging = false → ¬ s.IllegalMode → s.trapFlag = false →
    (¬ s.FetchInLimit 1 → step s = .refused .fetchBeyondLimit) ∧
      ∀ i rest, decode s.fetchBytes = .ok (i, rest) →
        (¬ s.FetchInLimit i.length → step s = .refused .fetchBeyondLimit) ∧
          (s.FetchInLimit i.length → ¬ s.FetchNotPushed i.length → step s = .refused .executesPushedBytes)

/-- A word placed at CS:EIP is the instruction that the very next step runs, and placing it changes no register, no
other byte, and no other address of `State.pushed`. The MODEL'S CHOICE: that the word stands for a load from outside
(log entry 8), and that it runs even where a push had stored to its two bytes, because placing it takes their
addresses off `State.pushed` (log entry 4). -/
def Obligations.PlacedWordRuns : Prop :=
  ∀ (s : State) (nbits w : Nat) (i : Instr), decodeTableWord nbits w = some i →
    (s.shutdown = false → s.paging = false → ¬ s.IllegalMode → s.trapFlag = false →
      s.FetchInLimit i.length →
      step (s.withFetchWord nbits w) = exec i (s.withFetchWord nbits w)) ∧
    (∀ a, a ∉ span (s.codeBase + s.eip) 2 → (s.withFetchWord nbits w).byteAt a = s.byteAt a) ∧
    (∀ a, a ∈ (s.withFetchWord nbits w).pushed ↔ a ∈ s.pushed ∧ a ∉ span (s.codeBase + s.eip) 2) ∧
    s.withFetchWord nbits w = { s with
      mem := (s.withFetchWord nbits w).mem, free := (s.withFetchWord nbits w).free,
      pushed := (s.withFetchWord nbits w).pushed }

/-- Once `shutdown` is set the processor executes no further instruction and takes no external interrupt
(rule R30). -/
def Obligations.ShutdownIsFinal : Prop :=
  ∀ s : State, s.shutdown = true →
    step s = .fault .shutdown ∧ (∀ i, exec i s = .fault .shutdown) ∧
      ∀ vector, externalInterrupt vector s = .fault .shutdown

/-- The states the spec refuses are refused by name, by every instruction and by a step: paging on (rule R55), PE = 0
with VM = 1 (rule R19), TF = 1 (rules R14, R145); and every instruction whose successor's address exceeds the code
segment's offset range (rule R85). That the last refusal comes before every effect of the instruction, the #GP(0) of
rule R86 among them, is the MODEL'S CHOICE (log entry 16). -/
def Obligations.RefusedStates : Prop :=
  ∀ s : State, s.shutdown = false →
    (s.paging = true →
      step s = .refused .pagingEnabled ∧ ∀ i, exec i s = .refused .pagingEnabled) ∧
    (s.paging = false → s.pe = false → s.vmFlag = true →
      step s = .refused .vm86WithoutProtection ∧ ∀ i, exec i s = .refused .vm86WithoutProtection) ∧
    (s.paging = false → (s.pe = true ∨ s.vmFlag = false) → s.trapFlag = true →
      step s = .refused .trapFlagSet ∧ ∀ i, exec i s = .refused .trapFlagSet) ∧
    (s.paging = false → (s.pe = true ∨ s.vmFlag = false) → s.trapFlag = false →
      ∀ i : Instr, s.codeTop < s.eip.toNat + i.length → exec i s = .refused .instructionPointerWraps)

/-! ### The three instructions -/

/-- `INT 3` makes interrupt 3, in every mode and whatever IOPL and IF are (rule R81). -/
def Obligations.IntThreeInterrupts : Prop :=
  ∀ s : State, Runnable s 1 → exec .int3 s = interrupt (bySoftware 3#8 1 s) s

/-- `INT imm8` makes the interrupt that the immediate byte numbers, 0 to 255, unscaled and unsigned, with the
instruction after it as the return location; in Virtual 8086 Mode with IOPL less than 3 it raises #GP(0) instead
(rules R70, R82). -/
def Obligations.IntImmediateInterrupts : Prop :=
  ∀ (s : State) (imm8 : Nat), imm8 < 256 → Runnable s 2 →
    (bySoftware (BitVec.ofNat 8 imm8) 2 s).vector.toNat = imm8 ∧
      exec (.intImm8 imm8) s =
        if s.pe = true ∧ s.vmFlag = true ∧ s.iopl < 3 then interrupt (byException .gp 0#16 s) s
        else interrupt (bySoftware (BitVec.ofNat 8 imm8) 2 s) s

/-- `INTO` makes interrupt 4 if OF = 1; with OF = 0 it completes in every runnable state, advancing EIP by 1 and
changing nothing else, whatever the IDT and the stack hold (rule R83). -/
def Obligations.IntoInterruptsOnOverflow : Prop :=
  ∀ s : State, Runnable s 1 →
    (s.overflowFlag = true → exec .into s = interrupt (bySoftware 4#8 1 s) s) ∧
      (s.overflowFlag = false → exec .into s = .next { s with eip := s.eip + 1#32 })

/-- The Virtual 8086 Mode check (rule R86): with IOPL less than 3 `INT imm8` raises #GP(0) at itself, before anything
has changed, delivered as an exception through vector 13; with IOPL 3 it is an interrupt; `INT 3` and `INTO` are
exempt; outside Virtual 8086 Mode IOPL is not consulted. -/
def Obligations.V86IoplCheck : Prop :=
  (∀ (s : State) (imm8 : Nat), imm8 < 256 → Runnable s 2 → s.pe = true → s.vmFlag = true →
    (s.iopl < 3 → exec (.intImm8 imm8) s = interrupt (byException .gp 0#16 s) s) ∧
      (s.iopl = 3 → exec (.intImm8 imm8) s = interrupt (bySoftware (BitVec.ofNat 8 imm8) 2 s) s)) ∧
  (∀ s : State, Runnable s 1 → s.pe = true → s.vmFlag = true →
    exec .int3 s = interrupt (bySoftware 3#8 1 s) s ∧
      (s.overflowFlag = true → exec .into s = interrupt (bySoftware 4#8 1 s) s) ∧
      (s.overflowFlag = false → exec .into s = .next { s with eip := s.eip + 1#32 })) ∧
  (∀ (s : State) (imm8 : Nat), imm8 < 256 → Runnable s 2 → (s.pe = false ∨ s.vmFlag = false) →
    exec (.intImm8 imm8) s = interrupt (bySoftware (BitVec.ofNat 8 imm8) 2 s) s)

/-! ### Real Address Mode -/

/-- Mode dispatch (rule R102): PE = 0 goes to REAL-ADDRESS-MODE, PE = 1 to PROTECTED-MODE, Virtual 8086 Mode
included. -/
def Obligations.ModeDispatch : Prop :=
  ∀ (ev : Event) (s : State), s.paging = false → ¬ s.IllegalMode →
    (s.pe = false → deliver ev s = deliverReal ev s) ∧ (s.pe = true → deliver ev s = deliverProtected ev s)

/-- REAL-ADDRESS-MODE (rule R103): the delivery of any event completes, pushes FLAGS, CS and IP and no error code,
clears IF and TF, and loads CS:IP from the vector's entry; with SP = 1, 3 or 5 it is a shutdown instead. -/
def Obligations.RealModeDelivery : Prop :=
  ∀ (ev : Event) (s : State), s.paging = false → s.vmFlag = false →
    (RealReady s ev.vector →
      ∃ t, deliver ev s = .transferred t ∧ RealEntered ev.vector ev.retSelector ev.retOffset s t) ∧
    (s.pe = false → s.ss.inv.big = false → (s.sp = 1#16 ∨ s.sp = 3#16 ∨ s.sp = 5#16) →
      ∃ t, deliver ev s = .shutDown t ∧ t.shutdown = true)

/-- In Real Address Mode all three instructions complete, for every interrupt they make (rules R81 to R83, R103,
R172). -/
def Obligations.RealModeInterruptsComplete : Prop :=
  ∀ (i : Instr) (s : State) (n : Byte), Runnable s i.length → interruptOf s i = some n → RealReady s n →
    ∃ t, exec i s = .next t ∧ RealEntered n s.cs.selector (s.eip + BitVec.ofNat 32 i.length) s t

/-- Insufficient stack space (rule R104): in Real Address Mode an interrupt made with SP = 1, 3 or 5 shuts the
processor down, after which no instruction executes; no other delivery shuts it down. -/
def Obligations.RealModeShutdown : Prop :=
  (∀ (i : Instr) (s : State) (n : Byte), Runnable s i.length → interruptOf s i = some n → s.pe = false →
    s.ss.inv.big = false → (s.sp = 1#16 ∨ s.sp = 3#16 ∨ s.sp = 5#16) →
    ∃ t, exec i s = .next t ∧ t.shutdown = true ∧ step t = .fault .shutdown) ∧
  (∀ (ev : Event) (s t : State), deliver ev s = .shutDown t →
    s.pe = false ∧ (s.sp = 1#16 ∨ s.sp = 3#16 ∨ s.sp = 5#16))

/-- Real Address Mode raises nothing (rules R88, R103); its two stops are refusals by name: a 32-bit stack
(decision D19) and a vector beyond the IDT limit (rule R47, decision D20). That the 32-bit stack is refused before SP
is looked at, with SP = 1, 3 or 5 too, is the MODEL'S CHOICE (log entry 15). -/
def Obligations.RealModeRaisesNothing : Prop :=
  ∀ (ev : Event) (s : State), s.paging = false → s.vmFlag = false → s.pe = false →
    (∀ t e c, deliver ev s ≠ .raised t e c) ∧
    (s.ss.inv.big = true → deliver ev s = .refused .realModeWideStack) ∧
    (s.ss.inv.big = false → s.sp ≠ 1#16 → s.sp ≠ 3#16 → s.sp ≠ 5#16 →
      s.idtr.limit.toNat < ev.vector.toNat * 4 + 3 → deliver ev s = .refused .realModeVectorBeyondLimit)

/-! ### Protected Mode: the checks in the order of the rules -/

/-- PROTECTED-MODE (rule R105): the checks on the IDT entry, in the page's order: limit, type, privilege (software
interrupts only), presence; then the kind of gate decides the block. -/
def Obligations.GateChecksInOrder : Prop :=
  ∀ (ev : Event) (s : State), s.paging = false → s.pe = true →
    let ar := descriptorAr (s.read64 (s.idtr.base + BitVec.ofNat 32 (ev.vector.toNat * 8)))
    let code := vectorCode ev.vector ev.ext
    deliver ev s =
      if s.idtr.limit.toNat < ev.vector.toNat * 8 + 7 then .raised s .gp code
      else if gateKind ar = none then .raised s .gp code
      else if ev.software = true ∧ ar.extractLsb' 5 2 < s.privilege then .raised s .gp code
      else if ar.getLsbD 7 = false then .raised s .np code
      else match gateKind ar with
        | some (.interruptGate size) => throughGate ev s size true
        | some (.trapGate size) => throughGate ev s size false
        | _ => throughTaskGate ev s

/-- TRAP-GATE-OR-INTERRUPT-GATE (rule R109): the checks on the gate's code segment selector and descriptor, in the
page's order: null, limits, type, presence; where all pass, the delivery goes on with the choice of path
(rule R110). -/
def Obligations.CodeSegmentChecksInOrder : Prop :=
  ∀ (ev : Event) (s : State) (size : GateSize) (b : Bool), GateOpen ev s (GateKind.through size b) →
    let selector := (s.read64 (s.idtr.base + BitVec.ofNat 32 (ev.vector.toNat * 8))).extractLsb' 16 16
    let ar := descriptorAr (s.descriptorBytes selector)
    let code := selectorCode selector ev.ext
    deliver ev s =
      if selector.extractLsb' 2 14 = 0#14 then .raised s .gp (if ev.ext then 1#16 else 0#16)
      else if (s.table selector).limit.toNat < (selector.extractLsb' 3 13).toNat * 8 + 7 then .raised s .gp code
      else if ar.getLsbD 4 = false ∨ ar.getLsbD 3 = false then .raised s .gp code
      else if ar.getLsbD 7 = false then .raised s .np code
      else passing s (choosePath ev s (gateTarget s ev.vector size b)) fun path =>
        match path with
        | .inner =>
          passing s (stackChecks ev s (gateTarget s ev.vector size b)
            (Ar.dpl (gateTarget s ev.vector size b).code.ar) (innerBytes size + errorBytes ev size)) fun n =>
            .transferred (innerTransfer ev (gateTarget s ev.vector size b) n s)
        | .fromV86 =>
          passing s (v86Checks ev s (gateTarget s ev.vector size b)) fun n =>
            .transferred (v86Transfer ev (gateTarget s ev.vector size b) n s)
        | .same =>
          passing s (sameChecks ev s (gateTarget s ev.vector size b)) fun _ =>
            .transferred (sameTransfer ev (gateTarget s ev.vector size b) s)

/-- The choice of path where it ends the delivery (rules R110, R113): a non-conforming segment of DPL above CPL
raises #GP; a conforming one is refused; from Virtual 8086 Mode only a 32-bit gate to a non-conforming level 0
segment goes on. -/
def Obligations.PathStops : Prop :=
  ∀ (ev : Event) (s : State) (size : GateSize) (b : Bool), GateOpen ev s (GateKind.through size b) →
    CodeOpen s (gateTarget s ev.vector size b) →
    let g := gateTarget s ev.vector size b
    let d := Ar.dpl g.code.ar
    (Ar.isConforming g.code.ar = false → s.privilege < d →
      deliver ev s = .raised s .gp (selectorCode g.selector ev.ext)) ∧
    (Ar.isConforming g.code.ar = true → s.privilege < d →
      deliver ev s = .refused .conformingSegmentAboveCpl) ∧
    (s.vmFlag = true → ¬ (Ar.isConforming g.code.ar = false ∧ d = 0#2 ∧ size = .bits32) →
      deliver ev s = .refused .v86NotToLevelZero)

/-- INTERRUPT-TO-INNER-PRIVILEGE, first half (rule R111): where a non-conforming segment's DPL is below CPL, the
outcome is the first failing check on the new stack, in the page's order (20 or 10 bytes of room, plus the error
code), or the transfer. Where the refusals stand among them is the MODEL'S CHOICE (log entry 14): the TSS limit
before check 1, the accessed bits after check 8. -/
def Obligations.NewStackChecksInOrder : Prop :=
  ∀ (ev : Event) (s : State) (size : GateSize) (b : Bool), GateOpen ev s (GateKind.through size b) →
    CodeOpen s (gateTarget s ev.vector size b) → s.vmFlag = false →
    let g := gateTarget s ev.vector size b
    let k := Ar.dpl g.code.ar
    Ar.isConforming g.code.ar = false → k < s.privilege →
    let need := (match size with | .bits16 => 10 | .bits32 => 20) +
      (match ev.errcode with | none => 0 | some _ => size.bytes)
    (s.tr.limit.toNat < s.tssStackEnd k.toNat → deliver ev s = .refused .tssBeyondLimit) ∧
    (s.tssStackEnd k.toNat ≤ s.tr.limit.toNat →
      deliver ev s = newStackOutcome ev s g k need fun n => .transferred (innerTransfer ev g n s))

/-- INTERRUPT-FROM-V86-MODE, its checks (rules R113, R114, decision D12): NT = 1 is refused; then the checks of
rule R111 on the level 0 stack with room for 36 bytes, plus the error code. Where the refusals (NT, the TSS limit, the
accessed bits) stand among them is the MODEL'S CHOICE (log entry 14), and that a 286 TSS serves this path as well is
DEDUCED (log entry 17). -/
def Obligations.V86StackChecksInOrder : Prop :=
  ∀ (ev : Event) (s : State) (b : Bool), GateOpen ev s (GateKind.through .bits32 b) →
    CodeOpen s (gateTarget s ev.vector .bits32 b) → s.vmFlag = true →
    let g := gateTarget s ev.vector .bits32 b
    Ar.isConforming g.code.ar = false → Ar.dpl g.code.ar = 0#2 →
    (s.nestedTaskFlag = true → deliver ev s = .refused .v86NestedTaskSet) ∧
    (s.nestedTaskFlag = false → s.tr.limit.toNat < s.tssStackEnd 0 → deliver ev s = .refused .tssBeyondLimit) ∧
    (s.nestedTaskFlag = false → s.tssStackEnd 0 ≤ s.tr.limit.toNat →
      deliver ev s = newStackOutcome ev s g 0#2 (36 + (match ev.errcode with | none => 0 | some _ => 4))
        fun n => .transferred (v86Transfer ev g n s))

/-- INTERRUPT-TO-SAME-PRIVILEGE-LEVEL, first half (rule R115): the current stack has room for 12 or 6 bytes plus the
error code, else #SS(0); the handler's first byte lies in the code segment, else #GP(0). That the refusal of a clear
accessed bit stands after both is the MODEL'S CHOICE (log entry 14). -/
def Obligations.SameLevelChecksInOrder : Prop :=
  ∀ (ev : Event) (s : State) (size : GateSize) (b : Bool), GateOpen ev s (GateKind.through size b) →
    CodeOpen s (gateTarget s ev.vector size b) → s.vmFlag = false →
    let g := gateTarget s ev.vector size b
    Ar.dpl g.code.ar ≤ s.privilege →
    (Ar.isConforming g.code.ar = true ∨ Ar.dpl g.code.ar = s.privilege) →
    let need := (match size with | .bits16 => 6 | .bits32 => 12) +
      (match ev.errcode with | none => 0 | some _ => size.bytes)
    deliver ev s =
      if ¬ RoomNotWrapping s.ss.inv.big s.esp need then .refused .stackPointerWraps
      else if ¬ StackRoom s.ss.inv s.ss.inv.big s.esp need then .raised s .ss 0#16
      else if ¬ InSegment g.code g.offset.toNat 1 then .raised s .gp 0#16
      else if Ar.accessed g.code.ar = false then .refused .accessedBitClear
      else .transferred (sameTransfer ev g s)

/-- TASK-GATE (rule R117): the checks on the TSS selector, in the page's order and without EXT; then SWITCH-TASKS,
which is the parameter `Config.switchTasks` (decision D17), and in the new task the room for the error code, its push
and the instruction pointer check. `IsAvailableTSS` is the parameter `Config.isAvailableTss` (decision D16, log
entry 11). That the pushed addresses and the count of draws outlive the switch is the MODEL'S CHOICE (log entry 12). -/
def Obligations.TaskGateInOrder : Prop :=
  ∀ (ev : Event) (s : State), GateOpen ev s .taskGate →
    let selector := gateSelector (s.idtEntry ev.vector)
    let ar := descriptorAr (s.read64 (s.gdtr.base + BitVec.ofNat 32 ((selector.extractLsb' 3 13).toNat * 8)))
    let code := selector &&& 0xFFFC#16
    deliver ev s =
      if selector.getLsbD 2 = true then .raised s .ts code
      else if s.gdtr.limit.toNat < (selector.extractLsb' 3 13).toNat * 8 + 7 then .raised s .ts code
      else if Config.isAvailableTss ar = false then .raised s .ts code
      else if ar.getLsbD 7 = false then .raised s .np code
      else match Config.switchTasks s selector true with
        | none => .refused .switchTasksUndefined
        | some v =>
          let u : State := { v with pushed := s.pushed, draws := max s.draws v.draws }
          if ¬ (u.Legal ∧ u.shutdown = false ∧ u.paging = false) then .refused .switchTasksUndefined
          else match ev.errcode with
            | none => if InSegment u.cs.inv u.eip.toNat 1 then .transferred u else .raised u .gp 0#16
            | some errorCode =>
              if ¬ RoomNotWrapping u.stackWide u.esp 2 then .refused .stackPointerWraps
              else if ¬ StackRoom u.ss.inv u.stackWide u.esp 2 then .raised u .ss 0#16
              else if InSegment u.cs.inv u.eip.toNat 1 then .transferred (u.push16 errorCode)
              else .raised (u.push16 errorCode) .gp 0#16

/-! ### Protected Mode: the transfers -/

/-- INTERRUPT-TO-SAME-PRIVILEGE-LEVEL (rules R115, R116, R132): any event that passes the checks is delivered, and the
handler finds what rule R116 says. -/
def Obligations.SameLevelEntry : Prop :=
  ∀ (ev : Event) (s : State) (size : GateSize) (b : Bool), SamePath ev s size b →
    ∃ t, deliver ev s = .transferred t ∧ SameEntered ev (gateTarget s ev.vector size b) s t

/-- INTERRUPT-TO-INNER-PRIVILEGE (rules R111, R112, R132). -/
def Obligations.InnerLevelEntry : Prop :=
  ∀ (ev : Event) (s : State) (size : GateSize) (b : Bool) (n : NewStack), InnerPath ev s size b n →
    ∃ t, deliver ev s = .transferred t ∧ InnerEntered ev (gateTarget s ev.vector size b) n s t

/-- INTERRUPT-FROM-V86-MODE (rules R113, R114, R132). -/
def Obligations.V86ModeEntry : Prop :=
  ∀ (ev : Event) (s : State) (b : Bool) (n : NewStack), V86Path ev s b n →
    ∃ t, deliver ev s = .transferred t ∧ V86Entered ev (gateTarget s ev.vector .bits32 b) n s t

/-- All three instructions complete at the same privilege level, for every interrupt they make through a 16-bit or
32-bit interrupt or trap gate (rules R81 to R83, R116, R172). -/
def Obligations.SameLevelInterruptsComplete : Prop :=
  ∀ (i : Instr) (s : State) (n : Byte) (size : GateSize) (b : Bool), Runnable s i.length →
    interruptOf s i = some n → SamePath (bySoftware n i.length s) s size b →
    ∃ t, exec i s = .next t ∧ SameEntered (bySoftware n i.length s) (gateTarget s n size b) s t

/-- All three instructions complete to an inner privilege level (rules R81 to R83, R112, R172). -/
def Obligations.InnerLevelInterruptsComplete : Prop :=
  ∀ (i : Instr) (s : State) (v : Byte) (size : GateSize) (b : Bool) (n : NewStack), Runnable s i.length →
    interruptOf s i = some v → InnerPath (bySoftware v i.length s) s size b n →
    ∃ t, exec i s = .next t ∧ InnerEntered (bySoftware v i.length s) (gateTarget s v size b) n s t

/-- All three instructions complete from Virtual 8086 Mode (rules R81 to R83, R86, R114, R172). -/
def Obligations.V86ModeInterruptsComplete : Prop :=
  ∀ (i : Instr) (s : State) (v : Byte) (b : Bool) (n : NewStack), Runnable s i.length →
    interruptOf s i = some v → V86Path (bySoftware v i.length s) s b n →
    ∃ t, exec i s = .next t ∧ V86Entered (bySoftware v i.length s) (gateTarget s v .bits32 b) n s t

/-- The emulation trap completes: in Virtual 8086 Mode with IOPL less than 3, `INT imm8` enters the level 0 handler of
vector 13 with error code 0 and the address of the `INT imm8` itself (rules R86, R114, R131). -/
def Obligations.V86EmulationTrapEnters : Prop :=
  ∀ (s : State) (imm8 : Nat) (b : Bool) (n : NewStack), Runnable s 2 → s.pe = true → s.vmFlag = true →
    s.iopl < 3 → V86Path (byException .gp 0#16 s) s b n →
    ∃ t, exec (.intImm8 imm8) s = .next t ∧
      V86Entered (byException .gp 0#16 s) (gateTarget s 13#8 .bits32 b) n s t

/-! ### Exceptions and frames -/

/-- `raise #E(code)` (rules R131, R133): a raised exception is delivered once, by a new delivery that is not software,
has EXT = 1 and the error code, through vector 10, 11, 12 or 13; a raise during such a delivery is refused
(decision D9). The return location is CS:EIP of the state `s` in which the delivery began, wherever it raised: for the
three instructions the instruction that was executing, after a task switch too (decision D5), but the MODEL'S CHOICE
where the event is an external interrupt (the next instruction to execute, log entry 24). -/
def Obligations.RaisedExceptionIsDelivered : Prop :=
  ∀ (ev : Event) (s u : State) (e : Exc) (code : Word), deliver ev s = .raised u e code →
    (ev.nested = false → interrupt ev s = interrupt (byException e code s) u) ∧
      (ev.nested = true → interrupt ev s = .refused .exceptionDuringException)

/-- Precision (rule R135): a raising delivery has changed nothing, unless it went through a task gate; and nothing is
raised in Real Address Mode. -/
def Obligations.RaiseChangesNothing : Prop :=
  ∀ (ev : Event) (s u : State) (e : Exc) (code : Word), deliver ev s = .raised u e code →
    s.pe = true ∧ (gateKind (descriptorAr (s.idtEntry ev.vector)) ≠ some .taskGate → u = s)

/-- Every exception that a delivery raises is a row of the table of rule R130: exception and error code together. -/
def Obligations.RaisesAreInTheTable : Prop :=
  ∀ (ev : Event) (s u : State) (e : Exc) (code : Word), deliver ev s = .raised u e code →
    let selector := gateSelector (s.idtEntry ev.vector)
    ((e = .gp ∨ e = .np) ∧ code = vectorCode ev.vector ev.ext) ∨
    (e = .gp ∧ code = if ev.ext then 1#16 else 0#16) ∨
    ((e = .gp ∨ e = .np) ∧ code = selectorCode selector ev.ext) ∨
    ((e = .ts ∨ e = .ss) ∧ ∃ k < 3, code = selectorCode (s.tssStackSelector k) ev.ext) ∨
    ((e = .ss ∨ e = .gp) ∧ code = 0#16) ∨
    ((e = .ts ∨ e = .np) ∧ code = selector &&& 0xFFFC#16)

/-- EVERY OUTCOME OF AN INSTRUCTION (rule R29): where no gate is a task gate, an instruction that answers a next state
has advanced over an untaken `INTO`, or has shut the processor down for want of real-mode stack space, or has entered
the handler of its own interrupt, or that of one exception, which the delivery of its own interrupt raised or the
check of rule R86; each entry changes exactly what its predicate says, all of memory and every register included. -/
def Obligations.EveryOutcome : Prop :=
  ∀ (i : Instr) (s t : State), NoTaskGates s → exec i s = .next t →
    (i = .into ∧ s.overflowFlag = false ∧ t = { s with eip := s.eip + 1#32 }) ∨
    (∃ n, interruptOf s i = some n ∧ s.pe = false ∧ (s.sp = 1#16 ∨ s.sp = 3#16 ∨ s.sp = 5#16) ∧
      t.shutdown = true) ∨
    (∃ n, interruptOf s i = some n ∧ deliver (bySoftware n i.length s) s = .transferred t ∧
      HandlerEntered (bySoftware n i.length s) s t) ∨
    (∃ e code, s.pe = true ∧
      ((∃ n, interruptOf s i = some n ∧ deliver (bySoftware n i.length s) s = .raised s e code) ∨
        (∃ imm8, i = .intImm8 imm8 ∧ s.vmFlag = true ∧ s.iopl < 3 ∧ e = .gp ∧ code = 0#16)) ∧
      HandlerEntered (byException e code s) s t)

/-- THE FRAME of the three instructions (rules R28, R29, R87, R90): while the processor runs on and no gate is a task
gate, no instruction changes a general register other than ESP, PE, the table registers, TR, or any flag but IF, TF,
NT and VM; SS changes only with the privilege level, a data segment register only on the way out of Virtual 8086
Mode; memory changes only in the bytes the entry pushed, as many as the path and the error code take; and where no
handler is entered nothing changes but EIP. -/
def Obligations.InstructionFrame : Prop :=
  ∀ (i : Instr) (s t : State), NoTaskGates s → exec i s = .next t → t.shutdown = false →
    t.gpr = s.gpr ∧ t.pe = s.pe ∧ t.paging = s.paging ∧
    t.idtr = s.idtr ∧ t.gdtr = s.gdtr ∧ t.ldtr = s.ldtr ∧ t.tr = s.tr ∧
    (∀ k, k ≠ Flags.tfBit → k ≠ Flags.ifBit → k ≠ Flags.ntBit → k ≠ Flags.vmBit →
      t.eflags.getLsbD k = s.eflags.getLsbD k) ∧
    (t.privilege = s.privilege → t.ss = s.ss) ∧
    (s.mode ≠ .v86 → t.ds = s.ds ∧ t.es = s.es ∧ t.fs = s.fs ∧ t.gs = s.gs) ∧
    (enteredEvent i s = none → (∀ a, t.byteAt a = s.byteAt a) ∧ t = { s with eip := t.eip }) ∧
    ∀ ev, enteredEvent i s = some ev →
      (s.pe = true → OnlyStored s t t.stackLinear (entryBytes ev s)) ∧
      (s.pe = false → ∀ a, (∀ k < 3, a ∉ span (t.realSlot k) 2) → t.byteAt a = s.byteAt a)

/-- Privilege and modes (rules R139, R140): while the processor runs on and no gate is a task gate, an instruction
never lowers privilege, never changes PE, never enters Virtual 8086 Mode, and leaves that mode only for Protected
Mode at level 0. -/
def Obligations.PrivilegeAndModes : Prop :=
  ∀ (i : Instr) (s t : State), NoTaskGates s → exec i s = .next t → t.shutdown = false →
    t.privilege ≤ s.privilege ∧ t.pe = s.pe ∧ (t.mode = .v86 → s.mode = .v86) ∧
      (s.mode = .v86 → t.mode = .v86 ∨ (t.mode = .prot ∧ t.privilege = 0#2))

/-- Interrupt gate against trap gate (rule R119): through either, and on each path, the resulting states differ in the
IF flag alone, which the interrupt gate clears and the trap gate leaves; both clear TF and NT, and VM from Virtual
8086 Mode, where NT is 0 on entry (decision D12) and stays so. In Real Address Mode there are no gates and IF is
always cleared. -/
def Obligations.GatesDifferInInterruptFlag : Prop :=
  ∀ (ev : Event) (s : State) (g : Target) (n : NewStack),
    let clearIf (t : State) : State := { t with eflags := Flags.clear t.eflags 9 }
    let trap := { g with isInterrupt := false }
    let intr := { g with isInterrupt := true }
    sameTransfer ev intr s = clearIf (sameTransfer ev trap s) ∧
    innerTransfer ev intr n s = clearIf (innerTransfer ev trap n s) ∧
    v86Transfer ev intr n s = clearIf (v86Transfer ev trap n s) ∧
    (∀ t ∈ [sameTransfer ev trap s, innerTransfer ev trap n s, v86Transfer ev trap n s],
      t.interruptFlag = s.interruptFlag ∧ t.trapFlag = false) ∧
    (sameTransfer ev trap s).nestedTaskFlag = false ∧ (innerTransfer ev trap n s).nestedTaskFlag = false ∧
    (v86Transfer ev trap n s).vmFlag = false ∧
    (s.nestedTaskFlag = false → (v86Transfer ev trap n s).nestedTaskFlag = false) ∧
    (realTransfer ev s).interruptFlag = false

/-- Self-modified code (rule R61): every byte that an instruction changed is remembered as stored by a push, so that a
later fetch of it is refused; and no instruction makes the machine forget an address, be it through a task gate
(the MODEL'S CHOICE, log entries 4 and 12). -/
def Obligations.ChangedBytesAreRemembered : Prop :=
  ∀ (i : Instr) (s t : State), exec i s = .next t →
    (NoTaskGates s → t.shutdown = false → ∀ a, t.byteAt a ≠ s.byteAt a → a ∈ t.pushed) ∧
      ∀ a ∈ s.pushed, a ∈ t.pushed

/-- The other general registers do not matter (rules R28, R90): whatever EAX, ECX, EDX, EBX, EBP, ESI and EDI hold, an
instruction does the same to everything else and leaves them alone. -/
def Obligations.GeneralRegistersDoNotMatter : Prop :=
  ∀ (i : Instr) (s t : State) (g : GeneralRegs), NoTaskGates s → exec i s = .next t → t.shutdown = false →
    exec i { s with gpr := g } = .next { t with gpr := g }

/-- An external interrupt (rules R13, R136): not taken while IF = 0; taken while IF = 1, with EXT = 1, no error code,
no check of the gate's DPL, and the next instruction to execute as the return location. -/
def Obligations.ExternalInterruptDelivery : Prop :=
  ∀ (vector : Byte) (s : State), s.shutdown = false →
    (s.eflags.getLsbD 9 = false → externalInterrupt vector s = .next s) ∧
    (s.eflags.getLsbD 9 = true → externalInterrupt vector s = interrupt
      { vector := vector, software := false, errcode := none, ext := true, retSelector := s.cs.selector,
        retOffset := s.eip, nested := false } s)

/-! ### The operations and the layouts -/

/-- Push (rule R46): the stack top is SS:ESP or SS:SP by the B bit in Protected Mode, at the base of SS (rule R45), and
SS:SP at selector * 16 in Real Address Mode and Virtual 8086 Mode (rule R44); the stack pointer goes down first, by
the width of the push, as ESP or as SP; the value stands at the new stack top; a padded push puts two free bytes
above the word, drawn afresh, so that no later push draws them again (decision D21, log entry 3); every other byte
of memory and every other register is unchanged. -/
def Obligations.PushStoresAtTheNewTop : Prop :=
  ∀ (s : State) (v : Word) (w : DWord),
    let protectedMode : Prop := s.pe = true ∧ s.vmFlag = false
    let frame (t : State) (n draws : Nat) : Prop :=
      t.esp = lowered s.stackWide s.esp n ∧ OnlyStored s t t.stackLinear n ∧ t.draws = s.draws + draws ∧
        t = { s with esp := t.esp, mem := t.mem, free := t.free, pushed := t.pushed, draws := t.draws }
    (s.stackWide = true ↔ protectedMode ∧ s.ss.inv.big = true) ∧
    (protectedMode → s.stackLinear =
      s.ss.inv.base + if s.ss.inv.big = true then s.esp else (s.esp.setWidth 16).setWidth 32) ∧
    (¬ protectedMode → s.stackLinear = s.ss.selector.setWidth 32 * 16#32 + (s.esp.setWidth 16).setWidth 32) ∧
    (frame (s.push16 v) 2 0 ∧ (s.push16 v).read16 (s.push16 v).stackLinear = v) ∧
    (frame (s.push32 w) 4 0 ∧ (s.push32 w).read32 (s.push32 w).stackLinear = w) ∧
    (frame (s.pushPadded v) 4 2 ∧ (s.pushPadded v).read16 (s.pushPadded v).stackLinear = v ∧
      (s.pushPadded v).read16 ((s.pushPadded v).stackLinear + 2#32) =
        Config.freeByte (s.draws + 1) ++ Config.freeByte s.draws)

/-- Memory (rules R41, R43): little-endian, byte by byte, each address modulo 2^32; a store changes the bytes it names
and no other, at any alignment (rule R42), and keeps the canonical form. -/
def Obligations.MemoryIsLittleEndian : Prop :=
  ∀ (s : State) (lin : DWord) (v : Word) (w : DWord),
    s.read16 lin = s.byteAt (lin + 1#32).toNat ++ s.byteAt lin.toNat ∧
    s.read32 lin = s.byteAt (lin + 3#32).toNat ++ s.byteAt (lin + 2#32).toNat ++
      s.byteAt (lin + 1#32).toNat ++ s.byteAt lin.toNat ∧
    s.read64 lin = s.byteAt (lin + 7#32).toNat ++ s.byteAt (lin + 6#32).toNat ++
      s.byteAt (lin + 5#32).toNat ++ s.byteAt (lin + 4#32).toNat ++ s.byteAt (lin + 3#32).toNat ++
      s.byteAt (lin + 2#32).toNat ++ s.byteAt (lin + 1#32).toNat ++ s.byteAt lin.toNat ∧
    (s.store16 lin v).read16 lin = v ∧ OnlyStored s (s.store16 lin v) lin 2 ∧
    (s.store32 lin w).read32 lin = w ∧ OnlyStored s (s.store32 lin w) lin 4 ∧
    (Memory.wf s.mem → s.FreeWf →
      (Memory.wf (s.store16 lin v).mem ∧ (s.store16 lin v).FreeWf) ∧
        Memory.wf (s.store32 lin w).mem ∧ (s.store32 lin w).FreeWf)

/-- Error codes (rule R106): the vector form is `vector * 8 + 2 + EXT`, with the vector in bits 15:3, bit 2 = 0, bit
1 = 1, bit 0 = EXT; the selector form keeps bits 15:2 and puts EXT in bit 0 (decision D7). -/
def Obligations.ErrorCodeForms : Prop :=
  (∀ (vector : Byte) (ext : Bool),
    (vectorError vector ext).toNat = vector.toNat * 8 + 2 + (if ext then 1 else 0) ∧
    (vectorError vector ext).extractLsb' 3 13 = vector.setWidth 13 ∧
    (vectorError vector ext).getLsbD 2 = false ∧ (vectorError vector ext).getLsbD 1 = true ∧
    (vectorError vector ext).getLsbD 0 = ext) ∧
  (∀ (selector : Word) (ext : Bool),
    (selectorError selector ext).extractLsb' 2 14 = selector.extractLsb' 2 14 ∧
    (selectorError selector ext).getLsbD 1 = false ∧ (selectorError selector ext).getLsbD 0 = ext)

/-- The layouts of a gate and of a segment descriptor (rules R51, R52): every field from its place, for every content
of the eight bytes. -/
def Obligations.DescriptorLayouts : Prop :=
  (∀ (offsetHigh selector offsetLow : Word) (ar unused : Byte),
    let d : QWord := offsetHigh ++ ar ++ unused ++ selector ++ offsetLow
    gateSelector d = selector ∧ descriptorAr d = ar ∧ gateOffset .bits32 d = offsetHigh ++ offsetLow ∧
      gateOffset .bits16 d = offsetLow.setWidth 32) ∧
  (∀ (baseHigh ar : Byte) (granular big zero avl : BitVec 1) (limitHigh : BitVec 4) (baseLow : BitVec 24)
      (limitLow : Word),
    let d : QWord := baseHigh ++ granular ++ big ++ zero ++ avl ++ limitHigh ++ ar ++ baseLow ++ limitLow
    (segmentDescriptor d).base = baseHigh ++ baseLow ∧ (segmentDescriptor d).ar = ar ∧
      (segmentDescriptor d).big = big.getLsbD 0 ∧
      (segmentDescriptor d).limit.toNat =
        if granular = 1#1 then (limitHigh ++ limitLow).toNat * 4096 + 4095
        else (limitHigh ++ limitLow).toNat)

/-- The five gate codes of AR[4:0] and no other (rule R51, decision D15). -/
def Obligations.GateCodes : Prop :=
  ∀ ar : Byte,
    let code := ar.extractLsb' 0 5
    (gateKind ar = some .taskGate ↔ code = 0b00101#5) ∧
    (gateKind ar = some (.interruptGate .bits16) ↔ code = 0b00110#5) ∧
    (gateKind ar = some (.trapGate .bits16) ↔ code = 0b00111#5) ∧
    (gateKind ar = some (.interruptGate .bits32) ↔ code = 0b01110#5) ∧
    (gateKind ar = some (.trapGate .bits32) ↔ code = 0b01111#5) ∧
    (gateKind ar = none ↔ code ∉ [0b00101#5, 0b00110#5, 0b00111#5, 0b01110#5, 0b01111#5])

/-- The access-rights byte, bit by bit (rule R52), and a selector (rules R49, R112): every field from its place;
`IsAvailableTSS` is the open parameter (rule R5, decision D16, log entry 11). -/
def Obligations.AccessRightsAndSelectors : Prop :=
  (∀ (present : BitVec 1) (dpl : BitVec 2) (segment code conforming readable accessed : BitVec 1),
    let ar : Byte := present ++ dpl ++ segment ++ code ++ conforming ++ readable ++ accessed
    (Ar.present ar = true ↔ present = 1#1) ∧ Ar.dpl ar = dpl ∧
    (Ar.isCode ar = true ↔ segment = 1#1 ∧ code = 1#1) ∧
    (Ar.isConforming ar = true ↔ segment = 1#1 ∧ code = 1#1 ∧ conforming = 1#1) ∧
    (Ar.isWritableData ar = true ↔ segment = 1#1 ∧ code = 0#1 ∧ readable = 1#1) ∧
    (Ar.isExpandDown ar = true ↔ segment = 1#1 ∧ code = 0#1 ∧ conforming = 1#1) ∧
    (Ar.accessed ar = true ↔ accessed = 1#1) ∧ Ar.isAvailableTss ar = Config.isAvailableTss ar) ∧
  (∀ (index : BitVec 13) (isLocal : BitVec 1) (rpl k : BitVec 2),
    let selector : Word := index ++ isLocal ++ rpl
    Selector.index selector = index.toNat ∧ (Selector.isLocal selector = true ↔ isLocal = 1#1) ∧
    Selector.rpl selector = rpl ∧ (Selector.IsNull selector ↔ index = 0#13 ∧ isLocal = 0#1) ∧
    Selector.withRpl selector k = (index ++ isLocal ++ k : Word))

/-- Where the tables lie (rules R47, R50, R51, decisions D31, D34, D35): a gate at the base of the IDT plus eight times
the vector, a descriptor at the base of the GDT or, for a local selector, of the LDT, plus eight times the index, each
within its table when its last byte is; and what a gate leads to. -/
def Obligations.TablesInMemory : Prop :=
  ∀ (s : State) (vector : Byte) (selector : Word) (size : GateSize) (b : Bool),
    let table := if selector.getLsbD 2 = true then s.ldtr else s.gdtr
    let index := (selector.extractLsb' 3 13).toNat
    let gate := s.idtEntry vector
    gate = s.read64 (s.idtr.base + BitVec.ofNat 32 (vector.toNat * 8)) ∧
    (s.InIdt vector ↔ vector.toNat * 8 + 7 ≤ s.idtr.limit.toNat) ∧
    (s.InLimits selector ↔ index * 8 + 7 ≤ table.limit.toNat) ∧
    s.readSegment selector = segmentDescriptor (s.read64 (table.base + BitVec.ofNat 32 (index * 8))) ∧
    gateTarget s vector size b = {
      selector := gateSelector gate, offset := gateOffset size gate, size := size, isInterrupt := b,
      code := s.readSegment (gateSelector gate) }

/-- The stack pairs of the current TSS (rule R53, decision D26), level by level: the stack pointer, the selector, and the
offset of the pair's last byte, in a 386 TSS and in a 286 TSS, whose pointer is zero-extended. -/
def Obligations.TssStackPairs : Prop :=
  ∀ s : State,
    let pair (k pointer selector last : Nat) : Prop :=
      s.tssStackPointer k =
        (if s.tr.is386 = true then s.read32 (s.tr.base + BitVec.ofNat 32 pointer)
          else (s.read16 (s.tr.base + BitVec.ofNat 32 pointer)).setWidth 32) ∧
      s.tssStackSelector k = s.read16 (s.tr.base + BitVec.ofNat 32 selector) ∧ s.tssStackEnd k = last ∧
      (s.InTss k ↔ last ≤ s.tr.limit.toNat)
    (s.tr.is386 = true → pair 0 4 8 9 ∧ pair 1 12 16 17 ∧ pair 2 20 24 25) ∧
    (s.tr.is386 = false → pair 0 2 4 5 ∧ pair 1 6 8 9 ∧ pair 2 10 12 13)

/-- The limit test and the room for pushes (rules R52, R54, decision D22): an access of `n` bytes lies inside a segment
up to its limit, or above it in an expand-down segment; the `n` bytes below the stack pointer, whose highest is `top`
and lowest `bot`, must not reach below 0, and lie within the limit, or above it in an expand-down segment. -/
def Obligations.SegmentAndStackBounds : Prop :=
  (∀ (h : Hidden) (off n : Nat), 0 < n →
    (Ar.isExpandDown h.ar = false → (InSegment h off n ↔ off + n ≤ h.limit.toNat + 1)) ∧
    (Ar.isExpandDown h.ar = true →
      (InSegment h off n ↔ h.limit.toNat < off ∧ off + n ≤ if h.big = true then 2 ^ 32 else 2 ^ 16))) ∧
  (∀ (h : Hidden) (wide : Bool) (sp : DWord) (n : Nat),
    let top : Int := ((sp.toNat : Int) - 1) % (if wide = true then 2 ^ 32 else 2 ^ 16)
    let bot : Int := top - n + 1
    (RoomNotWrapping wide sp n ↔ 0 ≤ bot) ∧
    (0 ≤ bot → Ar.isExpandDown h.ar = false → (StackRoom h wide sp n ↔ top ≤ h.limit.toNat)) ∧
    (0 ≤ bot → Ar.isExpandDown h.ar = true → (StackRoom h wide sp n ↔ (h.limit.toNat : Int) < bot)))

/-- The flags at their places in EFLAGS (rules R11 to R17); the modes from PE and VM, and the privilege level in force
(rules R19, R24, decision D12). -/
def Obligations.FlagsAndModes : Prop :=
  ∀ s : State,
    s.trapFlag = s.eflags.getLsbD 8 ∧ s.interruptFlag = s.eflags.getLsbD 9 ∧
    s.overflowFlag = s.eflags.getLsbD 11 ∧ s.nestedTaskFlag = s.eflags.getLsbD 14 ∧
    s.vmFlag = s.eflags.getLsbD 17 ∧
    s.iopl = (if s.eflags.getLsbD 13 = true then 2 else 0) + (if s.eflags.getLsbD 12 = true then 1 else 0) ∧
    (s.mode = .real ↔ s.pe = false) ∧ (s.mode = .v86 ↔ s.pe = true ∧ s.eflags.getLsbD 17 = true) ∧
    (s.mode = .prot ↔ s.pe = true ∧ s.eflags.getLsbD 17 = false) ∧
    (s.IllegalMode ↔ s.pe = false ∧ s.eflags.getLsbD 17 = true) ∧
    s.privilege = if s.pe = false then 0#2 else if s.eflags.getLsbD 17 = true then 3#2 else s.cpl

/-- The code segment by mode (rules R44, R45, R85): instructions are fetched at the invisible base of CS in Protected Mode,
else at selector * 16 (after reset too, log entry 7, DEDUCED); an instruction's successor must lie within FFFFH, or
FFFFFFFFH in Protected Mode with a 32-bit code segment. That the limit test of the fetch is that of rule R52 against
the invisible limit of CS in every mode, Virtual 8086 Mode among them, is the MODEL'S CHOICE (log entry 16). -/
def Obligations.CodeSegmentByMode : Prop :=
  ∀ (s : State) (n : Nat),
    let protectedMode : Prop := s.pe = true ∧ s.vmFlag = false
    let wide : Prop := s.pe = true ∧ s.vmFlag = false ∧ s.cs.inv.big = true
    (protectedMode → s.codeBase = s.cs.inv.base) ∧
    (¬ protectedMode → s.codeBase = s.cs.selector.setWidth 32 * 16#32) ∧
    (wide → s.codeTop = 0xFFFFFFFF) ∧ (¬ wide → s.codeTop = 0xFFFF) ∧
    (s.NextFits n ↔ s.eip.toNat + n ≤ s.codeTop) ∧ (s.FetchInLimit n ↔ InSegment s.cs.inv s.eip.toNat n)

/-- The Clocks column and the ts table (rules R176, R177), which no rule of behaviour depends on (rule R175). -/
def Obligations.ClockTables : Prop :=
  (∀ i : Instr,
    clockCount i .real = (match i with
      | .int3 => some (.clocks 33)
      | .intImm8 _ => some (.clocks 37)
      | .into => some (.clocks 35)) ∧
    clockCount i .samePrivilege = some (.clocks 59) ∧ clockCount i .morePrivilege = some (.clocks 99) ∧
    clockCount i .fromV86 = some (.clocks 119) ∧ clockCount i .taskGate = some .ts) ∧
  clockCount .into .notTaken = some (.clocks 3) ∧
  [TaskKind.tss386, .tss386Vm, .tss286].map
      (fun old => [TaskKind.tss386, .tss386Vm, .tss286].map (taskSwitchClocks old)) =
    [[309, 226, 282], [314, 231, 287], [307, 224, 280]]
end

