-- ==== Sys2Proof/Laws/Checks.lean ====
section
/-! SUPPORT. The blocks of checks: exactly when each passes, and how a block that does not pass ends a
delivery. -/

namespace Sys2Proof.Machine

section Require
variable {α : Type} {p : Prop} [Decidable p] {st : Stop} {f : Unit → Except Stop α}

theorem require_pos (h : p) : (require p st >>= f) = f () := by simp [require, h, bind, Except.bind]

theorem require_neg (h : ¬ p) : (require p st >>= f) = .error st := by
  simp [require, h, bind, Except.bind]

/-- A check and what follows it pass together. -/
theorem require_bind_ok {a : α} : (require p st >>= f) = .ok a ↔ p ∧ f () = .ok a := by
  by_cases h : p
  · rw [require_pos h]; simp [h]
  · rw [require_neg h]; simp [h]

/-- A block ends in error at its first failed check. -/
theorem require_bind_error {e : Stop} :
    (require p st >>= f) = .error e ↔ (¬ p ∧ st = e) ∨ (p ∧ f () = .error e) := by
  by_cases h : p
  · rw [require_pos h]; simp [h]
  · rw [require_neg h]; simp [h]

theorem require_ok {u : Unit} : require p st = .ok u ↔ p := by
  unfold require; split <;> simp_all

theorem require_error {e : Stop} : require p st = .error e ↔ ¬ p ∧ st = e := by
  unfold require; split <;> simp_all

end Require

/-! ### How checks end a delivery -/

section Passing
variable {α : Type} {s t : State} {x : Except Stop α} {k : α → Delivery}

@[simp] theorem passing_ok (s : State) (a : α) (k : α → Delivery) : passing s (.ok a) k = k a := rfl
@[simp] theorem passing_raise (s : State) (e : Exc) (c : Word) (k : α → Delivery) :
    passing s (.error (.raise e c)) k = .raised s e c := rfl
@[simp] theorem passing_refuse (s : State) (r : Refusal) (k : α → Delivery) :
    passing s (.error (.refuse r)) k = .refused r := rfl

theorem passing_transferred : passing s x k = .transferred t ↔ ∃ a, x = .ok a ∧ k a = .transferred t := by
  rcases x with (⟨e, c⟩ | r) | a <;> simp

theorem passing_shutDown : passing s x k = .shutDown t ↔ ∃ a, x = .ok a ∧ k a = .shutDown t := by
  rcases x with (⟨e, c⟩ | r) | a <;> simp

theorem passing_raised {e : Exc} {c : Word} :
    passing s x k = .raised t e c ↔
      (x = .error (.raise e c) ∧ s = t) ∨ ∃ a, x = .ok a ∧ k a = .raised t e c := by
  rcases x with (⟨e', c'⟩ | r) | a
  · simp only [passing_raise, Delivery.raised.injEq, Except.error.injEq, Stop.raise.injEq]
    constructor
    · rintro ⟨h1, h2, h3⟩; exact .inl ⟨⟨h2, h3⟩, h1⟩
    · rintro (⟨⟨h2, h3⟩, h1⟩ | ⟨a, h, _⟩)
      · exact ⟨h1, h2, h3⟩
      · cases h
  · simp
  · simp

theorem passing_refused {r : Refusal} :
    passing s x k = .refused r ↔ x = .error (.refuse r) ∨ ∃ a, x = .ok a ∧ k a = .refused r := by
  rcases x with (⟨e, c⟩ | r') | a <;> simp

end Passing

/-! ### When each block passes -/

/-- Rule R105: the gate checks pass exactly when the entry is within the limit, is a gate, is privileged enough
for a software interrupt, and is present. -/
theorem gateChecks_ok (ev : Event) (s : State) (kind : GateKind) :
    gateChecks ev s = .ok kind ↔
      s.InIdt ev.vector ∧ gateKind (descriptorAr (s.idtEntry ev.vector)) = some kind ∧
        (ev.software = true → s.privilege ≤ Ar.dpl (descriptorAr (s.idtEntry ev.vector))) ∧
        Ar.present (descriptorAr (s.idtEntry ev.vector)) = true := by
  unfold gateChecks
  simp only [require_bind_ok]
  cases h : gateKind (descriptorAr (s.idtEntry ev.vector)) with
  | none => simp
  | some g =>
    simp only [require_bind_ok, pure, Except.pure, Except.ok.injEq, Option.some.injEq]
    tauto

/-- Rule R109: the code segment checks pass exactly when the selector is non-null and within its table, and
names a present code segment. -/
theorem codeChecks_ok (ev : Event) (s : State) (t : Target) (u : Unit) :
    codeChecks ev s t = .ok u ↔
      ¬ Selector.IsNull t.selector ∧ s.InLimits t.selector ∧ Ar.isCode t.code.ar = true ∧
        Ar.present t.code.ar = true := by
  unfold codeChecks
  simp only [require_bind_ok, require_ok]

/-- Rule R111 and decision D23: the checks pass exactly when the new stack and the handler's code are ready. -/
theorem stackChecks_ok (ev : Event) (s : State) (t : Target) (k : BitVec 2) (need : Nat) (n : NewStack) :
    stackChecks ev s t k need = .ok n ↔ StackReady s t k need n := by
  unfold stackChecks
  simp only [require_bind_ok, pure, Except.pure, Except.ok.injEq]
  constructor
  · rintro ⟨h1, h2, h3, h4, h5, h6, h7, h8, h9, h10, ⟨h11, h12⟩, rfl⟩
    exact ⟨h1, rfl, rfl, h2, h3, h4, rfl, h5, h6, h7, h8, h9, h10, h11, h12⟩
  · rintro ⟨h1, h2, h3, h4, h5, h6, h7, h8, h9, h10, h11, h12, h13, h14, h15⟩
    obtain ⟨nsel, nptr, ninv⟩ := n
    simp only at *
    subst h2 h3 h7
    exact ⟨h1, h4, h5, h6, h8, h9, h10, h11, h12, h13, ⟨h14, h15⟩, rfl⟩

/-- Rule R114: the checks of the Virtual 8086 Mode path. -/
theorem v86Checks_ok (ev : Event) (s : State) (t : Target) (n : NewStack) :
    v86Checks ev s t = .ok n ↔
      s.nestedTaskFlag = false ∧ StackReady s t 0#2 (v86Bytes + errorBytes ev t.size) n := by
  unfold v86Checks
  simp only [require_bind_ok, stackChecks_ok]

/-- Rule R115 and decision D23: the checks of the same-level path. -/
theorem sameChecks_ok (ev : Event) (s : State) (t : Target) (u : Unit) :
    sameChecks ev s t = .ok u ↔
      RoomNotWrapping s.ss.inv.big s.esp (sameBytes t.size + errorBytes ev t.size) ∧
        StackRoom s.ss.inv s.ss.inv.big s.esp (sameBytes t.size + errorBytes ev t.size) ∧
        InSegment t.code t.offset.toNat 1 ∧ Ar.accessed t.code.ar = true := by
  unfold sameChecks
  simp only [require_bind_ok, require_ok]

/-- Rule R117, steps 1 to 4. -/
theorem taskChecks_ok (s : State) (t : Word) (u : Unit) :
    taskChecks s t = .ok u ↔
      Selector.isLocal t = false ∧ Selector.index t * 8 + 7 ≤ s.gdtr.limit.toNat ∧
        Ar.isAvailableTss (descriptorAr (s.descriptorBytes t)) = true ∧
        Ar.present (descriptorAr (s.descriptorBytes t)) = true := by
  unfold taskChecks
  simp only [require_bind_ok, require_ok]

/-- Rules R110, R113: when each path is taken. -/
theorem choosePath_ok (ev : Event) (s : State) (t : Target) (p : Path) :
    choosePath ev s t = .ok p ↔
      (p = .inner ∧ Ar.isConforming t.code.ar = false ∧ Ar.dpl t.code.ar < s.privilege ∧ s.vmFlag = false) ∨
      (p = .fromV86 ∧ Ar.isConforming t.code.ar = false ∧ Ar.dpl t.code.ar < s.privilege ∧
        s.vmFlag = true ∧ Ar.dpl t.code.ar = 0#2 ∧ t.size = .bits32) ∨
      (p = .same ∧ ¬ (Ar.isConforming t.code.ar = false ∧ Ar.dpl t.code.ar < s.privilege) ∧
        Ar.dpl t.code.ar ≤ s.privilege ∧ s.vmFlag = false) := by
  unfold choosePath
  simp only
  by_cases h1 : Ar.isConforming t.code.ar = false ∧ Ar.dpl t.code.ar < s.privilege
  · rw [if_pos h1]
    obtain ⟨hc, hd⟩ := h1
    by_cases hv : s.vmFlag = true
    · rw [if_pos hv]
      by_cases h2 : Ar.dpl t.code.ar = 0#2 ∧ t.size = .bits32
      · rw [if_pos h2]; cases p <;> simp_all
      · rw [if_neg h2]; cases p <;> simp_all
    · rw [if_neg hv]; cases p <;> simp_all
  · rw [if_neg h1]
    by_cases h2 : Ar.dpl t.code.ar ≤ s.privilege
    · rw [if_pos h2]
      by_cases hv : s.vmFlag = true
      · rw [if_pos hv]; cases p <;> simp_all
      · rw [if_neg hv]; cases p <;> simp_all
    · rw [if_neg h2]
      split <;> simp <;> tauto

end Sys2Proof.Machine
end

