-- ==== Sys2Proof/Laws/Flags.lean ====
section
/-! SUPPORT. What the flag changes of an entry do to each bit. -/

namespace Sys2Proof.Machine

namespace Flags

/-- Clearing a bit writes 0 there and leaves every other bit. -/
theorem getLsbD_clear (f : DWord) (n i : Nat) :
    (clear f n).getLsbD i = (f.getLsbD i && !decide (i = n)) := by
  unfold clear
  rw [BitVec.getLsbD_and, BitVec.getLsbD_not, BitVec.getLsbD_shiftLeft]
  by_cases hi : i < 32
  · by_cases h : i = n
    · subst h; simp [hi]
    · by_cases hn : i < n
      · simp [hi, h, hn]
      · have : i - n ≠ 0 := by omega
        simp [hi, h, this]
  · rw [BitVec.getLsbD_of_ge f i (by omega)]; simp

/-- Clearing a bit outside a mask leaves what the mask shows. -/
theorem clear_and_mask (f : DWord) (n : Nat) (mask : DWord) (h : ~~~(1#32 <<< n) &&& mask = mask) :
    clear f n &&& mask = f &&& mask := by
  unfold clear
  rw [BitVec.and_assoc, h]

theorem fixedBits_clear {f : DWord} {n : Nat} (h : ~~~(1#32 <<< n) &&& fixedMask = fixedMask)
    (hf : FixedBits f) : FixedBits (clear f n) := by
  unfold FixedBits at *
  rw [clear_and_mask f n fixedMask h, hf]

theorem fixedBits_afterRealEntry {f : DWord} (h : FixedBits f) : FixedBits (afterRealEntry f) :=
  fixedBits_clear (by decide) (fixedBits_clear (by decide) h)

theorem fixedBits_afterGateEntry {f : DWord} (b : Bool) (h : FixedBits f) :
    FixedBits (afterGateEntry b f) := by
  unfold afterGateEntry
  refine fixedBits_clear (by decide) (fixedBits_clear (by decide) ?_)
  cases b
  · exact h
  · exact fixedBits_clear (by decide) h

theorem fixedBits_afterV86Entry {f : DWord} (b : Bool) (h : FixedBits f) :
    FixedBits (afterV86Entry b f) := by
  have h1 : FixedBits (clear (clear f vmBit) tfBit) :=
    fixedBits_clear (by decide) (fixedBits_clear (by decide) h)
  unfold afterV86Entry
  cases b
  · exact h1
  · exact fixedBits_clear (by decide) h1

/-- A bit after the entry in Real Address Mode: IF and TF are 0, every other bit is as before. -/
theorem getLsbD_afterRealEntry (f : DWord) (i : Nat) :
    (afterRealEntry f).getLsbD i = (f.getLsbD i && !decide (i = ifBit) && !decide (i = tfBit)) := by
  simp [afterRealEntry, getLsbD_clear]

/-- A bit after an entry through a gate: TF and NT are 0, IF for an interrupt gate, every other bit is as
before. -/
theorem getLsbD_afterGateEntry (b : Bool) (f : DWord) (i : Nat) :
    (afterGateEntry b f).getLsbD i
      = (f.getLsbD i && !(b && decide (i = ifBit)) && !decide (i = tfBit) && !decide (i = ntBit)) := by
  cases b <;> simp [afterGateEntry, getLsbD_clear]

/-- A bit after an entry from Virtual 8086 Mode: VM and TF are 0, IF for an interrupt gate, every other bit is
as before. -/
theorem getLsbD_afterV86Entry (b : Bool) (f : DWord) (i : Nat) :
    (afterV86Entry b f).getLsbD i
      = (f.getLsbD i && !decide (i = vmBit) && !decide (i = tfBit) && !(b && decide (i = ifBit))) := by
  cases b <;> simp [afterV86Entry, getLsbD_clear]

end Flags

end Sys2Proof.Machine
end

