-- ==== Sys2Proof/Laws/Memory.lean ====
section
/-! SUPPORT. The laws of the memory primitives: a read after a write, every other place left alone, the
canonical form kept. -/

namespace Sys2Proof.Machine

/-! ### Lists of address and value pairs -/

section Assoc
variable {β : Type}

theorem assocFind_erase (a b : Nat) (l : List (Nat × β)) :
    assocFind b (assocErase a l) = if b = a then none else assocFind b l := by
  induction l with
  | nil => simp [assocErase, assocFind]
  | cons c l ih =>
    obtain ⟨k, v⟩ := c
    by_cases hk : k = a
    · subst hk
      have : assocErase k ((k, v) :: l) = assocErase k l := by simp [assocErase]
      rw [this, ih]
      by_cases hb : b = k
      · simp [hb]
      · simp [hb, assocFind, Ne.symm hb]
    · have : assocErase a ((k, v) :: l) = (k, v) :: assocErase a l := by simp [assocErase, hk]
      rw [this, assocFind, assocFind, ih]
      by_cases hb : k = b
      · subst hb; simp [hk]
      · simp [hb]

theorem assocFind_place (a b : Nat) (v : β) (l : List (Nat × β)) (h : assocFind a l = none) :
    assocFind b (assocPlace a v l) = if b = a then some v else assocFind b l := by
  induction l with
  | nil =>
    by_cases hb : b = a
    · simp [assocPlace, assocFind, hb]
    · simp [assocPlace, assocFind, hb, Ne.symm hb]
  | cons c l ih =>
    obtain ⟨k, w⟩ := c
    have hk : k ≠ a := by
      intro hk
      simp [assocFind, hk] at h
    have hl : assocFind a l = none := by simpa [assocFind, hk] using h
    by_cases ha : a < k
    · by_cases hb : b = a
      · simp [assocPlace, ha, assocFind, hb]
      · simp [assocPlace, ha, assocFind, hb, Ne.symm hb]
    · rw [assocPlace, if_neg ha, assocFind, assocFind, ih hl]
      by_cases hb : k = b
      · subst hb; simp [hk]
      · simp [hb]

theorem assocFind_insert (a b : Nat) (v : β) (l : List (Nat × β)) :
    assocFind b (assocPlace a v (assocErase a l)) = if b = a then some v else assocFind b l := by
  rw [assocFind_place _ _ _ _ (by simp [assocFind_erase]), assocFind_erase]
  by_cases hb : b = a <;> simp [hb]

theorem mem_assocPlace (a : Nat) (v : β) (l : List (Nat × β)) (c : Nat × β) :
    c ∈ assocPlace a v l ↔ c = (a, v) ∨ c ∈ l := by
  induction l with
  | nil => simp [assocPlace]
  | cons d l ih =>
    obtain ⟨k, w⟩ := d
    by_cases ha : a < k
    · simp [assocPlace, ha]
    · simp only [assocPlace, ha, if_false, List.mem_cons, ih]
      tauto

theorem mem_assocErase (a : Nat) (l : List (Nat × β)) (c : Nat × β) :
    c ∈ assocErase a l ↔ c ∈ l ∧ c.1 ≠ a := by
  simp [assocErase]

theorem assocErase_wf {a : Nat} {l : List (Nat × β)} (h : AssocWf l) : AssocWf (assocErase a l) :=
  ⟨h.1.filter _, fun c hc => h.2 c ((mem_assocErase a l c).1 hc).1⟩

theorem assocPlace_wf {a : Nat} {v : β} {l : List (Nat × β)} (h : AssocWf l) (ha : a < 2 ^ 32)
    (hl : ∀ c ∈ l, c.1 ≠ a) : AssocWf (assocPlace a v l) := by
  refine ⟨?_, fun c hc => ?_⟩
  · replace h := h.1
    induction l with
    | nil => simp [assocPlace]
    | cons d l ih =>
      obtain ⟨k, w⟩ := d
      have hk : k ≠ a := hl (k, w) (by simp)
      rw [List.pairwise_cons] at h
      by_cases hak : a < k
      · rw [assocPlace, if_pos hak, List.pairwise_cons, List.pairwise_cons]
        refine ⟨fun c hc => ?_, h⟩
        rcases List.mem_cons.1 hc with rfl | hc
        · exact hak
        · exact hak.trans (h.1 c hc)
      · rw [assocPlace, if_neg hak, List.pairwise_cons]
        refine ⟨fun c hc => ?_, ih (fun c hc => hl c (by simp [hc])) h.2⟩
        rcases (mem_assocPlace a v l c).1 hc with rfl | hc
        · show k < a
          omega
        · exact h.1 c hc
  · rcases (mem_assocPlace a v l c).1 hc with rfl | hc
    · exact ha
    · exact h.2 c hc

end Assoc

theorem mem_insertAddress (a b : Nat) (l : List Nat) : b ∈ insertAddress a l ↔ b = a ∨ b ∈ l := by
  induction l with
  | nil => simp [insertAddress]
  | cons k l ih =>
    unfold insertAddress
    split
    · simp
    · split
      · simp_all
      · simp only [List.mem_cons, ih]
        tauto

theorem insertAddress_wf {a : Nat} {l : List Nat} (h : AddressesWf l) (ha : a < 2 ^ 32) :
    AddressesWf (insertAddress a l) := by
  refine ⟨?_, fun b hb => ?_⟩
  · replace h := h.1
    induction l with
    | nil => simp [insertAddress]
    | cons k l ih =>
      rw [List.pairwise_cons] at h
      unfold insertAddress
      split
      · rename_i hak
        rw [List.pairwise_cons, List.pairwise_cons]
        refine ⟨fun c hc => ?_, h⟩
        rcases List.mem_cons.1 hc with rfl | hc
        · exact hak
        · exact hak.trans (h.1 c hc)
      · split
        · rw [List.pairwise_cons]; exact h
        · rw [List.pairwise_cons]
          refine ⟨fun c hc => ?_, ih h.2⟩
          rcases (mem_insertAddress a c l).1 hc with rfl | hc
          · omega
          · exact h.1 c hc
  · rcases (mem_insertAddress a b l).1 hb with rfl | hb
    · exact ha
    · exact h.2 b hb

/-! ### Cells -/

/-- A read after a write: the byte written at its place, every other place as before. -/
theorem Memory.read_write (m : Memory) (a b : Nat) (v : Byte) :
    (m.write a v).read b = if b = a then v else m.read b := by
  unfold Memory.read Memory.write
  split
  · rename_i hv
    rw [assocFind_erase]
    split <;> simp [hv]
  · rw [assocFind_insert]
    split <;> simp

/-- A write keeps the canonical form. -/
theorem Memory.write_wf {m : Memory} {a : Nat} {v : Byte} (h : Memory.wf m) (ha : a < 2 ^ 32) :
    Memory.wf (m.write a v) := by
  unfold Memory.write
  have herase : Memory.wf (assocErase a m) :=
    ⟨assocErase_wf h.1, fun c hc => h.2 c ((mem_assocErase a m c).1 hc).1⟩
  split
  · exact herase
  · rename_i hv
    refine ⟨assocPlace_wf herase.1 ha fun c hc => ((mem_assocErase a m c).1 hc).2, fun c hc => ?_⟩
    rcases (mem_assocPlace a v _ c).1 hc with rfl | hc
    · exact hv
    · exact herase.2 c hc

/-- The cells of any list make a canonical memory. -/
theorem Memory.canonical_wf (cells : List Host.Cell) : Memory.wf (Memory.canonical cells) := by
  unfold Memory.canonical
  suffices h : ∀ m : Memory, Memory.wf m →
      Memory.wf (cells.foldl (fun m c => m.write (c.1 % 2 ^ 32) c.2) m) from
    h [] ⟨⟨List.Pairwise.nil, by simp⟩, by simp⟩
  induction cells with
  | nil => exact fun m h => h
  | cons c cells ih => exact fun m h => ih _ (Memory.write_wf h (Nat.mod_lt _ (by norm_num)))

/-! ### Bytes of the machine's memory -/

namespace State

@[simp] theorem byteAt_setByte (s : State) (a b : Nat) (v : Byte) :
    (s.setByte a v).byteAt b = if b = a then v else s.byteAt b := by
  unfold byteAt setByte
  simp only [assocFind_erase, Memory.read_write]
  by_cases h : b = a <;> simp [h]

@[simp] theorem byteAt_setFree (s : State) (a b : Nat) :
    (s.setFree a).byteAt b = if b = a then Config.freeByte s.draws else s.byteAt b := by
  unfold byteAt setFree Memory.read
  simp only [assocFind_insert, assocFind_erase]
  by_cases h : b = a <;> simp [h]

/-- `byteAt` depends on `mem` and `free` alone. -/
theorem byteAt_congr {s t : State} (hm : t.mem = s.mem) (hf : t.free = s.free) (a : Nat) :
    t.byteAt a = s.byteAt a := by
  unfold byteAt
  rw [hm, hf]

@[simp] theorem byteAt_store8 (s : State) (lin : DWord) (v : Byte) (b : Nat) :
    (s.store8 lin v).byteAt b = if b = lin.toNat then v else s.byteAt b :=
  byteAt_setByte s lin.toNat b v

@[simp] theorem byteAt_storeFree8 (s : State) (lin : DWord) (b : Nat) :
    (s.storeFree8 lin).byteAt b = if b = lin.toNat then Config.freeByte s.draws else s.byteAt b :=
  byteAt_setFree s lin.toNat b

/-! ### Where a store leaves memory alone -/

theorem not_mem_span {lin : DWord} {n a : Nat} :
    a ∉ span lin n ↔ ∀ k < n, a ≠ (lin + BitVec.ofNat 32 k).toNat := by
  simp only [span, List.mem_map, List.mem_range, not_exists, not_and]
  exact ⟨fun h k hk e => h k hk e.symm, fun h k hk e => h k hk e.symm⟩

theorem byteAt_store16_outside (s : State) (lin : DWord) (v : Word) {a : Nat} (h : a ∉ span lin 2) :
    (s.store16 lin v).byteAt a = s.byteAt a := by
  rw [not_mem_span] at h
  have h0 : a ≠ lin.toNat := by simpa using h 0 (by omega)
  have h1 : a ≠ (lin + 1).toNat := h 1 (by omega)
  rw [store16, byteAt_store8, if_neg h1, byteAt_store8, if_neg h0]

theorem byteAt_store32_outside (s : State) (lin : DWord) (v : DWord) {a : Nat} (h : a ∉ span lin 4) :
    (s.store32 lin v).byteAt a = s.byteAt a := by
  rw [not_mem_span] at h
  rw [store32, byteAt_store16_outside, byteAt_store16_outside]
  · rw [not_mem_span]; intro k hk; exact h k (by omega)
  · rw [not_mem_span]
    intro k hk
    have := h (2 + k) (by omega)
    rwa [BitVec.ofNat_add, ← BitVec.add_assoc] at this

theorem byteAt_storePadded_outside (s : State) (lin : DWord) (v : Word) {a : Nat} (h : a ∉ span lin 4) :
    (s.storePadded lin v).byteAt a = s.byteAt a := by
  rw [not_mem_span] at h
  have h2 : a ≠ (lin + 2).toNat := h 2 (by omega)
  have h3 : a ≠ (lin + 3).toNat := h 3 (by omega)
  rw [storePadded, byteAt_storeFree8, if_neg h3, byteAt_storeFree8, if_neg h2, byteAt_store16_outside]
  rw [not_mem_span]; intro k hk; exact h k (by omega)

/-! ### What a store leaves at its own place -/

theorem add_ne_self {lin c : DWord} (h : c ≠ 0) : lin + c ≠ lin := by
  simpa using h

theorem read16_store16 (s : State) (lin : DWord) (v : Word) : (s.store16 lin v).read16 lin = v := by
  have h : (lin + 1).toNat ≠ lin.toNat := fun e => add_ne_self (by decide) (BitVec.eq_of_toNat_eq e)
  unfold read16 read8 store16
  rw [byteAt_store8, if_pos rfl, byteAt_store8, if_neg (Ne.symm h), byteAt_store8, if_pos rfl]
  ext i hi
  simp only [BitVec.getElem_append, BitVec.getElem_setWidth, BitVec.getElem_extractLsb']
  split
  · rfl
  · rw [BitVec.getLsbD_eq_getElem (by omega)]
    congr 1
    omega

/-- A word depends on its two bytes. -/
theorem read16_congr {s t : State} {lin : DWord}
    (h : ∀ a ∈ span lin 2, t.byteAt a = s.byteAt a) : t.read16 lin = s.read16 lin := by
  unfold read16 read8
  rw [h (lin + 1).toNat (by simp only [span, List.mem_map, List.mem_range]; exact ⟨1, by omega, rfl⟩),
    h lin.toNat (by simp only [span, List.mem_map, List.mem_range]; exact ⟨0, by omega, by simp⟩)]

theorem span_two_left {lin : DWord} {a : Nat} (h : a ∈ span lin 2) : a ∈ span lin 4 := by
  simp only [span, List.mem_map, List.mem_range] at h ⊢
  obtain ⟨k, hk, e⟩ := h
  exact ⟨k, by omega, e⟩

theorem span_two_right {lin : DWord} {a : Nat} (h : a ∈ span (lin + 2) 2) : a ∈ span lin 4 := by
  simp only [span, List.mem_map, List.mem_range] at h ⊢
  obtain ⟨k, hk, e⟩ := h
  refine ⟨2 + k, by omega, ?_⟩
  rwa [BitVec.ofNat_add, ← BitVec.add_assoc]

/-- A doubleword depends on its four bytes. -/
theorem read32_congr {s t : State} {lin : DWord}
    (h : ∀ a ∈ span lin 4, t.byteAt a = s.byteAt a) : t.read32 lin = s.read32 lin := by
  unfold read32
  rw [read16_congr fun a ha => h a (span_two_right ha), read16_congr fun a ha => h a (span_two_left ha)]

/-- The two words of a doubleword do not overlap. -/
theorem span_two_disjoint {lin : DWord} {a : Nat} (h : a ∈ span lin 2) : a ∉ span (lin + 2) 2 := by
  rw [not_mem_span]
  simp only [span, List.mem_map, List.mem_range] at h
  obtain ⟨j, hj, rfl⟩ := h
  intro k hk e
  have := BitVec.eq_of_toNat_eq e
  rw [BitVec.add_assoc] at this
  have := (BitVec.add_right_inj lin).1 this
  have := congrArg BitVec.toNat this
  simp at this
  omega

theorem read32_store32 (s : State) (lin : DWord) (v : DWord) : (s.store32 lin v).read32 lin = v := by
  unfold read32 store32
  rw [read16_store16]
  rw [read16_congr (s := s.store16 lin (v.setWidth 16)) (lin := lin), read16_store16]
  · ext i hi
    simp only [BitVec.getElem_append, BitVec.getElem_setWidth, BitVec.getElem_extractLsb']
    split
    · rfl
    · rw [BitVec.getLsbD_eq_getElem (by omega)]
      congr 1
      omega
  · intro a ha
    exact byteAt_store16_outside _ _ _ (span_two_disjoint ha)

theorem read16_storePadded (s : State) (lin : DWord) (v : Word) :
    (s.storePadded lin v).read16 lin = v := by
  unfold storePadded
  rw [read16_congr (s := s.store16 lin v), read16_store16]
  intro a ha
  have hd := not_mem_span.1 (span_two_disjoint ha)
  have h2 : a ≠ (lin + 2).toNat := by simpa using hd 0 (by omega)
  have h3 : a ≠ (lin + 3).toNat := by
    have := hd 1 (by omega)
    rwa [BitVec.add_assoc] at this
  rw [byteAt_storeFree8, if_neg h3, byteAt_storeFree8, if_neg h2]

/-- The padding is two fresh free bytes (rule R46, `PAD16`). -/
theorem read16_storePadded_high (s : State) (lin : DWord) (v : Word) :
    (s.storePadded lin v).read16 (lin + 2) = Config.freeByte (s.draws + 1) ++ Config.freeByte s.draws := by
  have h1 : lin + 2 + 1 = lin + 3 := by rw [BitVec.add_assoc]; rfl
  have h : (lin + 2).toNat ≠ (lin + 3).toNat := fun e =>
    add_ne_self (lin := lin + 2) (c := 1) (by decide) (h1.trans (BitVec.eq_of_toNat_eq e).symm)
  unfold read16 read8 storePadded
  rw [h1, byteAt_storeFree8, if_pos rfl, byteAt_storeFree8, if_neg h, byteAt_storeFree8, if_pos rfl]
  rfl

end State

end Sys2Proof.Machine
end

