-- ==== Sys2Proof/Laws/State.lean ====
section
/-! SUPPORT. One lemma per field per update: what a push, and a run of pushes, leaves in every field of the state
that it does not write (ESP, memory, the free bytes, the pushed addresses and the draws are the ones it writes). -/

namespace Sys2Proof.Machine

/-! ### `State.push16` -/

@[simp] theorem State.push16_gpr (s : State) (v : Word) : (s.push16 v).gpr = s.gpr := rfl
@[simp] theorem State.push16_eip (s : State) (v : Word) : (s.push16 v).eip = s.eip := rfl
@[simp] theorem State.push16_eflags (s : State) (v : Word) : (s.push16 v).eflags = s.eflags := rfl
@[simp] theorem State.push16_pe (s : State) (v : Word) : (s.push16 v).pe = s.pe := rfl
@[simp] theorem State.push16_cpl (s : State) (v : Word) : (s.push16 v).cpl = s.cpl := rfl
@[simp] theorem State.push16_paging (s : State) (v : Word) : (s.push16 v).paging = s.paging := rfl
@[simp] theorem State.push16_cs (s : State) (v : Word) : (s.push16 v).cs = s.cs := rfl
@[simp] theorem State.push16_ss (s : State) (v : Word) : (s.push16 v).ss = s.ss := rfl
@[simp] theorem State.push16_ds (s : State) (v : Word) : (s.push16 v).ds = s.ds := rfl
@[simp] theorem State.push16_es (s : State) (v : Word) : (s.push16 v).es = s.es := rfl
@[simp] theorem State.push16_fs (s : State) (v : Word) : (s.push16 v).fs = s.fs := rfl
@[simp] theorem State.push16_gs (s : State) (v : Word) : (s.push16 v).gs = s.gs := rfl
@[simp] theorem State.push16_idtr (s : State) (v : Word) : (s.push16 v).idtr = s.idtr := rfl
@[simp] theorem State.push16_gdtr (s : State) (v : Word) : (s.push16 v).gdtr = s.gdtr := rfl
@[simp] theorem State.push16_ldtr (s : State) (v : Word) : (s.push16 v).ldtr = s.ldtr := rfl
@[simp] theorem State.push16_tr (s : State) (v : Word) : (s.push16 v).tr = s.tr := rfl
@[simp] theorem State.push16_shutdown (s : State) (v : Word) : (s.push16 v).shutdown = s.shutdown := rfl

/-! ### `State.push32` -/

@[simp] theorem State.push32_gpr (s : State) (v : DWord) : (s.push32 v).gpr = s.gpr := rfl
@[simp] theorem State.push32_eip (s : State) (v : DWord) : (s.push32 v).eip = s.eip := rfl
@[simp] theorem State.push32_eflags (s : State) (v : DWord) : (s.push32 v).eflags = s.eflags := rfl
@[simp] theorem State.push32_pe (s : State) (v : DWord) : (s.push32 v).pe = s.pe := rfl
@[simp] theorem State.push32_cpl (s : State) (v : DWord) : (s.push32 v).cpl = s.cpl := rfl
@[simp] theorem State.push32_paging (s : State) (v : DWord) : (s.push32 v).paging = s.paging := rfl
@[simp] theorem State.push32_cs (s : State) (v : DWord) : (s.push32 v).cs = s.cs := rfl
@[simp] theorem State.push32_ss (s : State) (v : DWord) : (s.push32 v).ss = s.ss := rfl
@[simp] theorem State.push32_ds (s : State) (v : DWord) : (s.push32 v).ds = s.ds := rfl
@[simp] theorem State.push32_es (s : State) (v : DWord) : (s.push32 v).es = s.es := rfl
@[simp] theorem State.push32_fs (s : State) (v : DWord) : (s.push32 v).fs = s.fs := rfl
@[simp] theorem State.push32_gs (s : State) (v : DWord) : (s.push32 v).gs = s.gs := rfl
@[simp] theorem State.push32_idtr (s : State) (v : DWord) : (s.push32 v).idtr = s.idtr := rfl
@[simp] theorem State.push32_gdtr (s : State) (v : DWord) : (s.push32 v).gdtr = s.gdtr := rfl
@[simp] theorem State.push32_ldtr (s : State) (v : DWord) : (s.push32 v).ldtr = s.ldtr := rfl
@[simp] theorem State.push32_tr (s : State) (v : DWord) : (s.push32 v).tr = s.tr := rfl
@[simp] theorem State.push32_shutdown (s : State) (v : DWord) : (s.push32 v).shutdown = s.shutdown := rfl

/-! ### `State.pushPadded` -/

@[simp] theorem State.pushPadded_gpr (s : State) (v : Word) : (s.pushPadded v).gpr = s.gpr := rfl
@[simp] theorem State.pushPadded_eip (s : State) (v : Word) : (s.pushPadded v).eip = s.eip := rfl
@[simp] theorem State.pushPadded_eflags (s : State) (v : Word) : (s.pushPadded v).eflags = s.eflags := rfl
@[simp] theorem State.pushPadded_pe (s : State) (v : Word) : (s.pushPadded v).pe = s.pe := rfl
@[simp] theorem State.pushPadded_cpl (s : State) (v : Word) : (s.pushPadded v).cpl = s.cpl := rfl
@[simp] theorem State.pushPadded_paging (s : State) (v : Word) : (s.pushPadded v).paging = s.paging := rfl
@[simp] theorem State.pushPadded_cs (s : State) (v : Word) : (s.pushPadded v).cs = s.cs := rfl
@[simp] theorem State.pushPadded_ss (s : State) (v : Word) : (s.pushPadded v).ss = s.ss := rfl
@[simp] theorem State.pushPadded_ds (s : State) (v : Word) : (s.pushPadded v).ds = s.ds := rfl
@[simp] theorem State.pushPadded_es (s : State) (v : Word) : (s.pushPadded v).es = s.es := rfl
@[simp] theorem State.pushPadded_fs (s : State) (v : Word) : (s.pushPadded v).fs = s.fs := rfl
@[simp] theorem State.pushPadded_gs (s : State) (v : Word) : (s.pushPadded v).gs = s.gs := rfl
@[simp] theorem State.pushPadded_idtr (s : State) (v : Word) : (s.pushPadded v).idtr = s.idtr := rfl
@[simp] theorem State.pushPadded_gdtr (s : State) (v : Word) : (s.pushPadded v).gdtr = s.gdtr := rfl
@[simp] theorem State.pushPadded_ldtr (s : State) (v : Word) : (s.pushPadded v).ldtr = s.ldtr := rfl
@[simp] theorem State.pushPadded_tr (s : State) (v : Word) : (s.pushPadded v).tr = s.tr := rfl
@[simp] theorem State.pushPadded_shutdown (s : State) (v : Word) : (s.pushPadded v).shutdown = s.shutdown := rfl

/-! ### `pushFlags` -/

@[simp] theorem pushFlags_gpr (s : State) (z : GateSize) (v : DWord) : (pushFlags z v s).gpr = s.gpr := by cases z <;> rfl
@[simp] theorem pushFlags_eip (s : State) (z : GateSize) (v : DWord) : (pushFlags z v s).eip = s.eip := by cases z <;> rfl
@[simp] theorem pushFlags_eflags (s : State) (z : GateSize) (v : DWord) : (pushFlags z v s).eflags = s.eflags := by cases z <;> rfl
@[simp] theorem pushFlags_pe (s : State) (z : GateSize) (v : DWord) : (pushFlags z v s).pe = s.pe := by cases z <;> rfl
@[simp] theorem pushFlags_cpl (s : State) (z : GateSize) (v : DWord) : (pushFlags z v s).cpl = s.cpl := by cases z <;> rfl
@[simp] theorem pushFlags_paging (s : State) (z : GateSize) (v : DWord) : (pushFlags z v s).paging = s.paging := by cases z <;> rfl
@[simp] theorem pushFlags_cs (s : State) (z : GateSize) (v : DWord) : (pushFlags z v s).cs = s.cs := by cases z <;> rfl
@[simp] theorem pushFlags_ss (s : State) (z : GateSize) (v : DWord) : (pushFlags z v s).ss = s.ss := by cases z <;> rfl
@[simp] theorem pushFlags_ds (s : State) (z : GateSize) (v : DWord) : (pushFlags z v s).ds = s.ds := by cases z <;> rfl
@[simp] theorem pushFlags_es (s : State) (z : GateSize) (v : DWord) : (pushFlags z v s).es = s.es := by cases z <;> rfl
@[simp] theorem pushFlags_fs (s : State) (z : GateSize) (v : DWord) : (pushFlags z v s).fs = s.fs := by cases z <;> rfl
@[simp] theorem pushFlags_gs (s : State) (z : GateSize) (v : DWord) : (pushFlags z v s).gs = s.gs := by cases z <;> rfl
@[simp] theorem pushFlags_idtr (s : State) (z : GateSize) (v : DWord) : (pushFlags z v s).idtr = s.idtr := by cases z <;> rfl
@[simp] theorem pushFlags_gdtr (s : State) (z : GateSize) (v : DWord) : (pushFlags z v s).gdtr = s.gdtr := by cases z <;> rfl
@[simp] theorem pushFlags_ldtr (s : State) (z : GateSize) (v : DWord) : (pushFlags z v s).ldtr = s.ldtr := by cases z <;> rfl
@[simp] theorem pushFlags_tr (s : State) (z : GateSize) (v : DWord) : (pushFlags z v s).tr = s.tr := by cases z <;> rfl
@[simp] theorem pushFlags_shutdown (s : State) (z : GateSize) (v : DWord) : (pushFlags z v s).shutdown = s.shutdown := by cases z <;> rfl

/-! ### `pushPointer` -/

@[simp] theorem pushPointer_gpr (s : State) (z : GateSize) (v : Word) (w : DWord) : (pushPointer z v w s).gpr = s.gpr := by cases z <;> simp [pushPointer]
@[simp] theorem pushPointer_eip (s : State) (z : GateSize) (v : Word) (w : DWord) : (pushPointer z v w s).eip = s.eip := by cases z <;> simp [pushPointer]
@[simp] theorem pushPointer_eflags (s : State) (z : GateSize) (v : Word) (w : DWord) : (pushPointer z v w s).eflags = s.eflags := by cases z <;> simp [pushPointer]
@[simp] theorem pushPointer_pe (s : State) (z : GateSize) (v : Word) (w : DWord) : (pushPointer z v w s).pe = s.pe := by cases z <;> simp [pushPointer]
@[simp] theorem pushPointer_cpl (s : State) (z : GateSize) (v : Word) (w : DWord) : (pushPointer z v w s).cpl = s.cpl := by cases z <;> simp [pushPointer]
@[simp] theorem pushPointer_paging (s : State) (z : GateSize) (v : Word) (w : DWord) : (pushPointer z v w s).paging = s.paging := by cases z <;> simp [pushPointer]
@[simp] theorem pushPointer_cs (s : State) (z : GateSize) (v : Word) (w : DWord) : (pushPointer z v w s).cs = s.cs := by cases z <;> simp [pushPointer]
@[simp] theorem pushPointer_ss (s : State) (z : GateSize) (v : Word) (w : DWord) : (pushPointer z v w s).ss = s.ss := by cases z <;> simp [pushPointer]
@[simp] theorem pushPointer_ds (s : State) (z : GateSize) (v : Word) (w : DWord) : (pushPointer z v w s).ds = s.ds := by cases z <;> simp [pushPointer]
@[simp] theorem pushPointer_es (s : State) (z : GateSize) (v : Word) (w : DWord) : (pushPointer z v w s).es = s.es := by cases z <;> simp [pushPointer]
@[simp] theorem pushPointer_fs (s : State) (z : GateSize) (v : Word) (w : DWord) : (pushPointer z v w s).fs = s.fs := by cases z <;> simp [pushPointer]
@[simp] theorem pushPointer_gs (s : State) (z : GateSize) (v : Word) (w : DWord) : (pushPointer z v w s).gs = s.gs := by cases z <;> simp [pushPointer]
@[simp] theorem pushPointer_idtr (s : State) (z : GateSize) (v : Word) (w : DWord) : (pushPointer z v w s).idtr = s.idtr := by cases z <;> simp [pushPointer]
@[simp] theorem pushPointer_gdtr (s : State) (z : GateSize) (v : Word) (w : DWord) : (pushPointer z v w s).gdtr = s.gdtr := by cases z <;> simp [pushPointer]
@[simp] theorem pushPointer_ldtr (s : State) (z : GateSize) (v : Word) (w : DWord) : (pushPointer z v w s).ldtr = s.ldtr := by cases z <;> simp [pushPointer]
@[simp] theorem pushPointer_tr (s : State) (z : GateSize) (v : Word) (w : DWord) : (pushPointer z v w s).tr = s.tr := by cases z <;> simp [pushPointer]
@[simp] theorem pushPointer_shutdown (s : State) (z : GateSize) (v : Word) (w : DWord) : (pushPointer z v w s).shutdown = s.shutdown := by cases z <;> simp [pushPointer]

/-! ### `pushError` -/

@[simp] theorem pushError_gpr (s : State) (ev : Event) (z : GateSize) : (pushError ev z s).gpr = s.gpr := by unfold pushError; split <;> rfl
@[simp] theorem pushError_eip (s : State) (ev : Event) (z : GateSize) : (pushError ev z s).eip = s.eip := by unfold pushError; split <;> rfl
@[simp] theorem pushError_eflags (s : State) (ev : Event) (z : GateSize) : (pushError ev z s).eflags = s.eflags := by unfold pushError; split <;> rfl
@[simp] theorem pushError_pe (s : State) (ev : Event) (z : GateSize) : (pushError ev z s).pe = s.pe := by unfold pushError; split <;> rfl
@[simp] theorem pushError_cpl (s : State) (ev : Event) (z : GateSize) : (pushError ev z s).cpl = s.cpl := by unfold pushError; split <;> rfl
@[simp] theorem pushError_paging (s : State) (ev : Event) (z : GateSize) : (pushError ev z s).paging = s.paging := by unfold pushError; split <;> rfl
@[simp] theorem pushError_cs (s : State) (ev : Event) (z : GateSize) : (pushError ev z s).cs = s.cs := by unfold pushError; split <;> rfl
@[simp] theorem pushError_ss (s : State) (ev : Event) (z : GateSize) : (pushError ev z s).ss = s.ss := by unfold pushError; split <;> rfl
@[simp] theorem pushError_ds (s : State) (ev : Event) (z : GateSize) : (pushError ev z s).ds = s.ds := by unfold pushError; split <;> rfl
@[simp] theorem pushError_es (s : State) (ev : Event) (z : GateSize) : (pushError ev z s).es = s.es := by unfold pushError; split <;> rfl
@[simp] theorem pushError_fs (s : State) (ev : Event) (z : GateSize) : (pushError ev z s).fs = s.fs := by unfold pushError; split <;> rfl
@[simp] theorem pushError_gs (s : State) (ev : Event) (z : GateSize) : (pushError ev z s).gs = s.gs := by unfold pushError; split <;> rfl
@[simp] theorem pushError_idtr (s : State) (ev : Event) (z : GateSize) : (pushError ev z s).idtr = s.idtr := by unfold pushError; split <;> rfl
@[simp] theorem pushError_gdtr (s : State) (ev : Event) (z : GateSize) : (pushError ev z s).gdtr = s.gdtr := by unfold pushError; split <;> rfl
@[simp] theorem pushError_ldtr (s : State) (ev : Event) (z : GateSize) : (pushError ev z s).ldtr = s.ldtr := by unfold pushError; split <;> rfl
@[simp] theorem pushError_tr (s : State) (ev : Event) (z : GateSize) : (pushError ev z s).tr = s.tr := by unfold pushError; split <;> rfl
@[simp] theorem pushError_shutdown (s : State) (ev : Event) (z : GateSize) : (pushError ev z s).shutdown = s.shutdown := by unfold pushError; split <;> rfl

/-! ### `State.withStack` -/

@[simp] theorem State.withStack_gpr (s : State) (g : SegReg) (e : DWord) : (s.withStack g e).gpr = s.gpr := rfl
@[simp] theorem State.withStack_esp (s : State) (g : SegReg) (e : DWord) : (s.withStack g e).esp = e := rfl
@[simp] theorem State.withStack_eip (s : State) (g : SegReg) (e : DWord) : (s.withStack g e).eip = s.eip := rfl
@[simp] theorem State.withStack_eflags (s : State) (g : SegReg) (e : DWord) : (s.withStack g e).eflags = s.eflags := rfl
@[simp] theorem State.withStack_pe (s : State) (g : SegReg) (e : DWord) : (s.withStack g e).pe = s.pe := rfl
@[simp] theorem State.withStack_cpl (s : State) (g : SegReg) (e : DWord) : (s.withStack g e).cpl = s.cpl := rfl
@[simp] theorem State.withStack_paging (s : State) (g : SegReg) (e : DWord) : (s.withStack g e).paging = s.paging := rfl
@[simp] theorem State.withStack_cs (s : State) (g : SegReg) (e : DWord) : (s.withStack g e).cs = s.cs := rfl
@[simp] theorem State.withStack_ss (s : State) (g : SegReg) (e : DWord) : (s.withStack g e).ss = g := rfl
@[simp] theorem State.withStack_ds (s : State) (g : SegReg) (e : DWord) : (s.withStack g e).ds = s.ds := rfl
@[simp] theorem State.withStack_es (s : State) (g : SegReg) (e : DWord) : (s.withStack g e).es = s.es := rfl
@[simp] theorem State.withStack_fs (s : State) (g : SegReg) (e : DWord) : (s.withStack g e).fs = s.fs := rfl
@[simp] theorem State.withStack_gs (s : State) (g : SegReg) (e : DWord) : (s.withStack g e).gs = s.gs := rfl
@[simp] theorem State.withStack_idtr (s : State) (g : SegReg) (e : DWord) : (s.withStack g e).idtr = s.idtr := rfl
@[simp] theorem State.withStack_gdtr (s : State) (g : SegReg) (e : DWord) : (s.withStack g e).gdtr = s.gdtr := rfl
@[simp] theorem State.withStack_ldtr (s : State) (g : SegReg) (e : DWord) : (s.withStack g e).ldtr = s.ldtr := rfl
@[simp] theorem State.withStack_tr (s : State) (g : SegReg) (e : DWord) : (s.withStack g e).tr = s.tr := rfl
@[simp] theorem State.withStack_shutdown (s : State) (g : SegReg) (e : DWord) : (s.withStack g e).shutdown = s.shutdown := rfl
@[simp] theorem State.withStack_mem (s : State) (g : SegReg) (e : DWord) : (s.withStack g e).mem = s.mem := rfl
@[simp] theorem State.withStack_free (s : State) (g : SegReg) (e : DWord) : (s.withStack g e).free = s.free := rfl
@[simp] theorem State.withStack_pushed (s : State) (g : SegReg) (e : DWord) : (s.withStack g e).pushed = s.pushed := rfl
@[simp] theorem State.withStack_draws (s : State) (g : SegReg) (e : DWord) : (s.withStack g e).draws = s.draws := rfl

/-! ### `State.withCode` -/

@[simp] theorem State.withCode_gpr (s : State) (g : SegReg) (e : DWord) : (s.withCode g e).gpr = s.gpr := rfl
@[simp] theorem State.withCode_esp (s : State) (g : SegReg) (e : DWord) : (s.withCode g e).esp = s.esp := rfl
@[simp] theorem State.withCode_eip (s : State) (g : SegReg) (e : DWord) : (s.withCode g e).eip = e := rfl
@[simp] theorem State.withCode_eflags (s : State) (g : SegReg) (e : DWord) : (s.withCode g e).eflags = s.eflags := rfl
@[simp] theorem State.withCode_pe (s : State) (g : SegReg) (e : DWord) : (s.withCode g e).pe = s.pe := rfl
@[simp] theorem State.withCode_cpl (s : State) (g : SegReg) (e : DWord) : (s.withCode g e).cpl = s.cpl := rfl
@[simp] theorem State.withCode_paging (s : State) (g : SegReg) (e : DWord) : (s.withCode g e).paging = s.paging := rfl
@[simp] theorem State.withCode_cs (s : State) (g : SegReg) (e : DWord) : (s.withCode g e).cs = g := rfl
@[simp] theorem State.withCode_ss (s : State) (g : SegReg) (e : DWord) : (s.withCode g e).ss = s.ss := rfl
@[simp] theorem State.withCode_ds (s : State) (g : SegReg) (e : DWord) : (s.withCode g e).ds = s.ds := rfl
@[simp] theorem State.withCode_es (s : State) (g : SegReg) (e : DWord) : (s.withCode g e).es = s.es := rfl
@[simp] theorem State.withCode_fs (s : State) (g : SegReg) (e : DWord) : (s.withCode g e).fs = s.fs := rfl
@[simp] theorem State.withCode_gs (s : State) (g : SegReg) (e : DWord) : (s.withCode g e).gs = s.gs := rfl
@[simp] theorem State.withCode_idtr (s : State) (g : SegReg) (e : DWord) : (s.withCode g e).idtr = s.idtr := rfl
@[simp] theorem State.withCode_gdtr (s : State) (g : SegReg) (e : DWord) : (s.withCode g e).gdtr = s.gdtr := rfl
@[simp] theorem State.withCode_ldtr (s : State) (g : SegReg) (e : DWord) : (s.withCode g e).ldtr = s.ldtr := rfl
@[simp] theorem State.withCode_tr (s : State) (g : SegReg) (e : DWord) : (s.withCode g e).tr = s.tr := rfl
@[simp] theorem State.withCode_shutdown (s : State) (g : SegReg) (e : DWord) : (s.withCode g e).shutdown = s.shutdown := rfl
@[simp] theorem State.withCode_mem (s : State) (g : SegReg) (e : DWord) : (s.withCode g e).mem = s.mem := rfl
@[simp] theorem State.withCode_free (s : State) (g : SegReg) (e : DWord) : (s.withCode g e).free = s.free := rfl
@[simp] theorem State.withCode_pushed (s : State) (g : SegReg) (e : DWord) : (s.withCode g e).pushed = s.pushed := rfl
@[simp] theorem State.withCode_draws (s : State) (g : SegReg) (e : DWord) : (s.withCode g e).draws = s.draws := rfl

/-! ### `State.withPrivilege` -/

@[simp] theorem State.withPrivilege_gpr (s : State) (k : BitVec 2) : (s.withPrivilege k).gpr = s.gpr := rfl
@[simp] theorem State.withPrivilege_esp (s : State) (k : BitVec 2) : (s.withPrivilege k).esp = s.esp := rfl
@[simp] theorem State.withPrivilege_eip (s : State) (k : BitVec 2) : (s.withPrivilege k).eip = s.eip := rfl
@[simp] theorem State.withPrivilege_eflags (s : State) (k : BitVec 2) : (s.withPrivilege k).eflags = s.eflags := rfl
@[simp] theorem State.withPrivilege_pe (s : State) (k : BitVec 2) : (s.withPrivilege k).pe = s.pe := rfl
@[simp] theorem State.withPrivilege_cpl (s : State) (k : BitVec 2) : (s.withPrivilege k).cpl = k := rfl
@[simp] theorem State.withPrivilege_paging (s : State) (k : BitVec 2) : (s.withPrivilege k).paging = s.paging := rfl
@[simp] theorem State.withPrivilege_cs (s : State) (k : BitVec 2) : (s.withPrivilege k).cs = { s.cs with selector := Selector.withRpl s.cs.selector k } := rfl
@[simp] theorem State.withPrivilege_ss (s : State) (k : BitVec 2) : (s.withPrivilege k).ss = s.ss := rfl
@[simp] theorem State.withPrivilege_ds (s : State) (k : BitVec 2) : (s.withPrivilege k).ds = s.ds := rfl
@[simp] theorem State.withPrivilege_es (s : State) (k : BitVec 2) : (s.withPrivilege k).es = s.es := rfl
@[simp] theorem State.withPrivilege_fs (s : State) (k : BitVec 2) : (s.withPrivilege k).fs = s.fs := rfl
@[simp] theorem State.withPrivilege_gs (s : State) (k : BitVec 2) : (s.withPrivilege k).gs = s.gs := rfl
@[simp] theorem State.withPrivilege_idtr (s : State) (k : BitVec 2) : (s.withPrivilege k).idtr = s.idtr := rfl
@[simp] theorem State.withPrivilege_gdtr (s : State) (k : BitVec 2) : (s.withPrivilege k).gdtr = s.gdtr := rfl
@[simp] theorem State.withPrivilege_ldtr (s : State) (k : BitVec 2) : (s.withPrivilege k).ldtr = s.ldtr := rfl
@[simp] theorem State.withPrivilege_tr (s : State) (k : BitVec 2) : (s.withPrivilege k).tr = s.tr := rfl
@[simp] theorem State.withPrivilege_shutdown (s : State) (k : BitVec 2) : (s.withPrivilege k).shutdown = s.shutdown := rfl
@[simp] theorem State.withPrivilege_mem (s : State) (k : BitVec 2) : (s.withPrivilege k).mem = s.mem := rfl
@[simp] theorem State.withPrivilege_free (s : State) (k : BitVec 2) : (s.withPrivilege k).free = s.free := rfl
@[simp] theorem State.withPrivilege_pushed (s : State) (k : BitVec 2) : (s.withPrivilege k).pushed = s.pushed := rfl
@[simp] theorem State.withPrivilege_draws (s : State) (k : BitVec 2) : (s.withPrivilege k).draws = s.draws := rfl

/-! ### `State.mapFlags` -/

@[simp] theorem State.mapFlags_gpr (s : State) (f : DWord → DWord) : (s.mapFlags f).gpr = s.gpr := rfl
@[simp] theorem State.mapFlags_esp (s : State) (f : DWord → DWord) : (s.mapFlags f).esp = s.esp := rfl
@[simp] theorem State.mapFlags_eip (s : State) (f : DWord → DWord) : (s.mapFlags f).eip = s.eip := rfl
@[simp] theorem State.mapFlags_eflags (s : State) (f : DWord → DWord) : (s.mapFlags f).eflags = f s.eflags := rfl
@[simp] theorem State.mapFlags_pe (s : State) (f : DWord → DWord) : (s.mapFlags f).pe = s.pe := rfl
@[simp] theorem State.mapFlags_cpl (s : State) (f : DWord → DWord) : (s.mapFlags f).cpl = s.cpl := rfl
@[simp] theorem State.mapFlags_paging (s : State) (f : DWord → DWord) : (s.mapFlags f).paging = s.paging := rfl
@[simp] theorem State.mapFlags_cs (s : State) (f : DWord → DWord) : (s.mapFlags f).cs = s.cs := rfl
@[simp] theorem State.mapFlags_ss (s : State) (f : DWord → DWord) : (s.mapFlags f).ss = s.ss := rfl
@[simp] theorem State.mapFlags_ds (s : State) (f : DWord → DWord) : (s.mapFlags f).ds = s.ds := rfl
@[simp] theorem State.mapFlags_es (s : State) (f : DWord → DWord) : (s.mapFlags f).es = s.es := rfl
@[simp] theorem State.mapFlags_fs (s : State) (f : DWord → DWord) : (s.mapFlags f).fs = s.fs := rfl
@[simp] theorem State.mapFlags_gs (s : State) (f : DWord → DWord) : (s.mapFlags f).gs = s.gs := rfl
@[simp] theorem State.mapFlags_idtr (s : State) (f : DWord → DWord) : (s.mapFlags f).idtr = s.idtr := rfl
@[simp] theorem State.mapFlags_gdtr (s : State) (f : DWord → DWord) : (s.mapFlags f).gdtr = s.gdtr := rfl
@[simp] theorem State.mapFlags_ldtr (s : State) (f : DWord → DWord) : (s.mapFlags f).ldtr = s.ldtr := rfl
@[simp] theorem State.mapFlags_tr (s : State) (f : DWord → DWord) : (s.mapFlags f).tr = s.tr := rfl
@[simp] theorem State.mapFlags_shutdown (s : State) (f : DWord → DWord) : (s.mapFlags f).shutdown = s.shutdown := rfl
@[simp] theorem State.mapFlags_mem (s : State) (f : DWord → DWord) : (s.mapFlags f).mem = s.mem := rfl
@[simp] theorem State.mapFlags_free (s : State) (f : DWord → DWord) : (s.mapFlags f).free = s.free := rfl
@[simp] theorem State.mapFlags_pushed (s : State) (f : DWord → DWord) : (s.mapFlags f).pushed = s.pushed := rfl
@[simp] theorem State.mapFlags_draws (s : State) (f : DWord → DWord) : (s.mapFlags f).draws = s.draws := rfl

/-! ### `State.withNullDataSegments` -/

@[simp] theorem State.withNullDataSegments_gpr (s : State) : (s.withNullDataSegments).gpr = s.gpr := rfl
@[simp] theorem State.withNullDataSegments_esp (s : State) : (s.withNullDataSegments).esp = s.esp := rfl
@[simp] theorem State.withNullDataSegments_eip (s : State) : (s.withNullDataSegments).eip = s.eip := rfl
@[simp] theorem State.withNullDataSegments_eflags (s : State) : (s.withNullDataSegments).eflags = s.eflags := rfl
@[simp] theorem State.withNullDataSegments_pe (s : State) : (s.withNullDataSegments).pe = s.pe := rfl
@[simp] theorem State.withNullDataSegments_cpl (s : State) : (s.withNullDataSegments).cpl = s.cpl := rfl
@[simp] theorem State.withNullDataSegments_paging (s : State) : (s.withNullDataSegments).paging = s.paging := rfl
@[simp] theorem State.withNullDataSegments_cs (s : State) : (s.withNullDataSegments).cs = s.cs := rfl
@[simp] theorem State.withNullDataSegments_ss (s : State) : (s.withNullDataSegments).ss = s.ss := rfl
@[simp] theorem State.withNullDataSegments_ds (s : State) : (s.withNullDataSegments).ds = { selector := 0#16, inv := none } := rfl
@[simp] theorem State.withNullDataSegments_es (s : State) : (s.withNullDataSegments).es = { selector := 0#16, inv := none } := rfl
@[simp] theorem State.withNullDataSegments_fs (s : State) : (s.withNullDataSegments).fs = { selector := 0#16, inv := none } := rfl
@[simp] theorem State.withNullDataSegments_gs (s : State) : (s.withNullDataSegments).gs = { selector := 0#16, inv := none } := rfl
@[simp] theorem State.withNullDataSegments_idtr (s : State) : (s.withNullDataSegments).idtr = s.idtr := rfl
@[simp] theorem State.withNullDataSegments_gdtr (s : State) : (s.withNullDataSegments).gdtr = s.gdtr := rfl
@[simp] theorem State.withNullDataSegments_ldtr (s : State) : (s.withNullDataSegments).ldtr = s.ldtr := rfl
@[simp] theorem State.withNullDataSegments_tr (s : State) : (s.withNullDataSegments).tr = s.tr := rfl
@[simp] theorem State.withNullDataSegments_shutdown (s : State) : (s.withNullDataSegments).shutdown = s.shutdown := rfl
@[simp] theorem State.withNullDataSegments_mem (s : State) : (s.withNullDataSegments).mem = s.mem := rfl
@[simp] theorem State.withNullDataSegments_free (s : State) : (s.withNullDataSegments).free = s.free := rfl
@[simp] theorem State.withNullDataSegments_pushed (s : State) : (s.withNullDataSegments).pushed = s.pushed := rfl
@[simp] theorem State.withNullDataSegments_draws (s : State) : (s.withNullDataSegments).draws = s.draws := rfl

/-! ### `pushDataSegments` -/

@[simp] theorem pushDataSegments_gpr (s : State) : (pushDataSegments s).gpr = s.gpr := by
  simp [pushDataSegments]
@[simp] theorem pushDataSegments_eip (s : State) : (pushDataSegments s).eip = s.eip := by
  simp [pushDataSegments]
@[simp] theorem pushDataSegments_eflags (s : State) : (pushDataSegments s).eflags = s.eflags := by
  simp [pushDataSegments]
@[simp] theorem pushDataSegments_pe (s : State) : (pushDataSegments s).pe = s.pe := by
  simp [pushDataSegments]
@[simp] theorem pushDataSegments_cpl (s : State) : (pushDataSegments s).cpl = s.cpl := by
  simp [pushDataSegments]
@[simp] theorem pushDataSegments_paging (s : State) : (pushDataSegments s).paging = s.paging := by
  simp [pushDataSegments]
@[simp] theorem pushDataSegments_cs (s : State) : (pushDataSegments s).cs = s.cs := by
  simp [pushDataSegments]
@[simp] theorem pushDataSegments_ss (s : State) : (pushDataSegments s).ss = s.ss := by
  simp [pushDataSegments]
@[simp] theorem pushDataSegments_ds (s : State) : (pushDataSegments s).ds = { selector := 0#16, inv := none } := by
  simp [pushDataSegments]
@[simp] theorem pushDataSegments_es (s : State) : (pushDataSegments s).es = { selector := 0#16, inv := none } := by
  simp [pushDataSegments]
@[simp] theorem pushDataSegments_fs (s : State) : (pushDataSegments s).fs = { selector := 0#16, inv := none } := by
  simp [pushDataSegments]
@[simp] theorem pushDataSegments_gs (s : State) : (pushDataSegments s).gs = { selector := 0#16, inv := none } := by
  simp [pushDataSegments]
@[simp] theorem pushDataSegments_idtr (s : State) : (pushDataSegments s).idtr = s.idtr := by
  simp [pushDataSegments]
@[simp] theorem pushDataSegments_gdtr (s : State) : (pushDataSegments s).gdtr = s.gdtr := by
  simp [pushDataSegments]
@[simp] theorem pushDataSegments_ldtr (s : State) : (pushDataSegments s).ldtr = s.ldtr := by
  simp [pushDataSegments]
@[simp] theorem pushDataSegments_tr (s : State) : (pushDataSegments s).tr = s.tr := by
  simp [pushDataSegments]
@[simp] theorem pushDataSegments_shutdown (s : State) : (pushDataSegments s).shutdown = s.shutdown := by
  simp [pushDataSegments]

/-! ### What the updated fields give together -/

/-- The mode depends on PE and EFLAGS alone. -/
theorem State.mode_congr {s t : State} (hp : t.pe = s.pe) (hf : t.eflags = s.eflags) : t.mode = s.mode := by
  unfold State.mode State.vmFlag
  rw [hp, hf]

/-- The width of the stack depends on the mode and SS. -/
theorem State.stackWide_congr {s t : State} (hp : t.pe = s.pe) (hf : t.eflags = s.eflags) (hs : t.ss = s.ss) :
    t.stackWide = s.stackWide := by
  unfold State.stackWide
  rw [State.mode_congr hp hf, hs]

/-- The base of the stack depends on the mode and SS. -/
theorem State.stackBase_congr {s t : State} (hp : t.pe = s.pe) (hf : t.eflags = s.eflags) (hs : t.ss = s.ss) :
    t.stackBase = s.stackBase := by
  unfold State.stackBase
  rw [State.mode_congr hp hf, hs]

/-- The stack pointer and SS, with the mode, say where the stack top lies. -/
theorem State.stackOffset_congr {s t : State} (hw : t.stackWide = s.stackWide) (he : t.esp = s.esp) :
    t.stackOffset = s.stackOffset := by
  unfold State.stackOffset State.sp
  rw [hw, he]

/-! ### `State.afterSwitch`: the parameter's fields, and the model's own records carried on -/

@[simp] theorem State.afterSwitch_gpr (s u : State) : (s.afterSwitch u).gpr = u.gpr := rfl
@[simp] theorem State.afterSwitch_esp (s u : State) : (s.afterSwitch u).esp = u.esp := rfl
@[simp] theorem State.afterSwitch_eip (s u : State) : (s.afterSwitch u).eip = u.eip := rfl
@[simp] theorem State.afterSwitch_eflags (s u : State) : (s.afterSwitch u).eflags = u.eflags := rfl
@[simp] theorem State.afterSwitch_pe (s u : State) : (s.afterSwitch u).pe = u.pe := rfl
@[simp] theorem State.afterSwitch_cpl (s u : State) : (s.afterSwitch u).cpl = u.cpl := rfl
@[simp] theorem State.afterSwitch_paging (s u : State) : (s.afterSwitch u).paging = u.paging := rfl
@[simp] theorem State.afterSwitch_cs (s u : State) : (s.afterSwitch u).cs = u.cs := rfl
@[simp] theorem State.afterSwitch_ss (s u : State) : (s.afterSwitch u).ss = u.ss := rfl
@[simp] theorem State.afterSwitch_ds (s u : State) : (s.afterSwitch u).ds = u.ds := rfl
@[simp] theorem State.afterSwitch_es (s u : State) : (s.afterSwitch u).es = u.es := rfl
@[simp] theorem State.afterSwitch_fs (s u : State) : (s.afterSwitch u).fs = u.fs := rfl
@[simp] theorem State.afterSwitch_gs (s u : State) : (s.afterSwitch u).gs = u.gs := rfl
@[simp] theorem State.afterSwitch_idtr (s u : State) : (s.afterSwitch u).idtr = u.idtr := rfl
@[simp] theorem State.afterSwitch_gdtr (s u : State) : (s.afterSwitch u).gdtr = u.gdtr := rfl
@[simp] theorem State.afterSwitch_ldtr (s u : State) : (s.afterSwitch u).ldtr = u.ldtr := rfl
@[simp] theorem State.afterSwitch_tr (s u : State) : (s.afterSwitch u).tr = u.tr := rfl
@[simp] theorem State.afterSwitch_shutdown (s u : State) : (s.afterSwitch u).shutdown = u.shutdown := rfl
@[simp] theorem State.afterSwitch_mem (s u : State) : (s.afterSwitch u).mem = u.mem := rfl
@[simp] theorem State.afterSwitch_free (s u : State) : (s.afterSwitch u).free = u.free := rfl
@[simp] theorem State.afterSwitch_pushed (s u : State) : (s.afterSwitch u).pushed = s.pushed := rfl
@[simp] theorem State.afterSwitch_draws (s u : State) : (s.afterSwitch u).draws = max s.draws u.draws := rfl

end Sys2Proof.Machine
end

