-- ==== Sys2Proof/Laws/Stack.lean ====
section
/-! SUPPORT. What a push and a run of pushes do: where the stack pointer goes, what the stack then holds, which
bytes change. -/

namespace Sys2Proof.Machine

namespace State

/-! ### One push -/

@[simp] theorem stackLinear_push16 (s : State) (v : Word) :
    (s.push16 v).stackLinear = (s.lowerStack 2).stackLinear := rfl
@[simp] theorem stackLinear_push32 (s : State) (v : DWord) :
    (s.push32 v).stackLinear = (s.lowerStack 4).stackLinear := rfl
@[simp] theorem stackLinear_pushPadded (s : State) (v : Word) :
    (s.pushPadded v).stackLinear = (s.lowerStack 4).stackLinear := rfl
theorem stackOffset_push16 (s : State) (v : Word) :
    (s.push16 v).stackOffset = (s.lowerStack 2).stackOffset := rfl
theorem stackOffset_push32 (s : State) (v : DWord) :
    (s.push32 v).stackOffset = (s.lowerStack 4).stackOffset := rfl
theorem stackOffset_pushPadded (s : State) (v : Word) :
    (s.pushPadded v).stackOffset = (s.lowerStack 4).stackOffset := rfl

theorem read16_push16 (s : State) (v : Word) : (s.push16 v).read16 (s.push16 v).stackLinear = v :=
  read16_store16 (s.lowerStack 2) _ v

theorem read32_push32 (s : State) (v : DWord) : (s.push32 v).read32 (s.push32 v).stackLinear = v :=
  read32_store32 (s.lowerStack 4) _ v

theorem read16_pushPadded (s : State) (v : Word) :
    (s.pushPadded v).read16 (s.pushPadded v).stackLinear = v :=
  read16_storePadded (s.lowerStack 4) _ v

theorem onlyStored_push16 (s : State) (v : Word) : OnlyStored s (s.push16 v) (s.push16 v).stackLinear 2 :=
  fun _ ha => byteAt_store16_outside (s.lowerStack 2) _ v ha

theorem onlyStored_push32 (s : State) (v : DWord) : OnlyStored s (s.push32 v) (s.push32 v).stackLinear 4 :=
  fun _ ha => byteAt_store32_outside (s.lowerStack 4) _ v ha

theorem onlyStored_pushPadded (s : State) (v : Word) :
    OnlyStored s (s.pushPadded v) (s.pushPadded v).stackLinear 4 :=
  fun _ ha => byteAt_storePadded_outside (s.lowerStack 4) _ v ha

/-! ### Where the stack pointer stands -/

/-- The number of offsets the stack pointer can take. -/
def stackSpan (s : State) : Nat := if s.stackWide then 2 ^ 32 else 2 ^ 16

/-- `r` bytes of offsets lie below the stack pointer; a stack pointer of 0 stands above all of them. -/
def StackAt (s : State) (r : Nat) : Prop := r ≤ s.stackSpan ∧ s.stackOffset.toNat = r % s.stackSpan

/-- The room below the stack pointer is `top + 1` of rule R54. -/
theorem stackAt_room (s : State) : s.StackAt (roomTop s.stackWide s.esp + 1) := by
  unfold StackAt stackSpan stackOffset roomTop sp
  by_cases h : s.stackWide = true
  · have := s.esp.isLt
    simp only [h, if_true]
    constructor
    · omega
    · simp only [BitVec.toNat_sub, BitVec.toNat_ofNat]
      omega
  · have := (s.esp.setWidth 16).isLt
    simp only [h]
    constructor
    · simp; omega
    · simp only [Bool.false_eq_true, if_false, BitVec.toNat_setWidth, BitVec.toNat_sub,
        BitVec.toNat_ofNat] at this ⊢
      omega

/-- Lowering the stack pointer by no more than the room below it does not wrap. -/
theorem stackAt_lower {s : State} {r n : Nat} (h : s.StackAt r) (hn : n ≤ r) (hs : n < 2 ^ 16) :
    (s.lowerStack n).StackAt (r - n) := by
  have hw : (s.lowerStack n).stackWide = s.stackWide := rfl
  have he : (s.lowerStack n).esp = s.loweredEsp n := rfl
  unfold StackAt stackSpan stackOffset sp at *
  rw [hw, he]
  unfold loweredEsp sp
  by_cases hwide : s.stackWide = true
  · simp only [hwide, if_true] at *
    refine ⟨by omega, ?_⟩
    have := s.esp.isLt
    simp only [BitVec.toNat_sub, BitVec.toNat_ofNat]
    omega
  · simp only [hwide, Bool.false_eq_true, if_false] at *
    refine ⟨by omega, ?_⟩
    have hlow : (s.esp.extractLsb' 16 16 ++ (s.esp.setWidth 16 - BitVec.ofNat 16 n)).setWidth 16
        = s.esp.setWidth 16 - BitVec.ofNat 16 n := by
      ext i hi
      simp only [BitVec.getElem_setWidth]
      rw [BitVec.getLsbD_append, if_pos hi, BitVec.getLsbD_eq_getElem hi]
    rw [hlow]
    have h2 := h.2
    simp only [BitVec.toNat_setWidth, BitVec.toNat_sub, BitVec.toNat_ofNat] at h2 ⊢
    omega

theorem loweredEsp_high {s : State} {n : Nat} (hw : s.stackWide = false) :
    (s.loweredEsp n).extractLsb' 16 16 = s.esp.extractLsb' 16 16 := by
  unfold loweredEsp
  rw [hw]
  simp only [Bool.false_eq_true, if_false]
  ext i hi
  simp only [BitVec.getElem_extractLsb']
  rw [BitVec.getLsbD_append, if_neg (by omega), BitVec.getLsbD_extractLsb']
  have : 16 + i - 16 < 16 := by omega
  simp only [this, decide_true, Bool.true_and]
  congr 1
  omega

theorem stackAt_congr {s t : State} {r : Nat} (hw : t.stackWide = s.stackWide)
    (ho : t.stackOffset = s.stackOffset) (h : s.StackAt r) : t.StackAt r := by
  unfold StackAt stackSpan at *
  rw [hw, ho]; exact h

theorem stackAt_push16 {s : State} {r : Nat} (v : Word) (h : s.StackAt r) (hr : 2 ≤ r) :
    (s.push16 v).StackAt (r - 2) :=
  stackAt_congr (s := s.lowerStack 2) rfl (stackOffset_push16 s v) (stackAt_lower h hr (by norm_num))

theorem stackAt_push32 {s : State} {r : Nat} (v : DWord) (h : s.StackAt r) (hr : 4 ≤ r) :
    (s.push32 v).StackAt (r - 4) :=
  stackAt_congr (s := s.lowerStack 4) rfl (stackOffset_push32 s v) (stackAt_lower h hr (by norm_num))

theorem stackAt_pushPadded {s : State} {r : Nat} (v : Word) (h : s.StackAt r) (hr : 4 ≤ r) :
    (s.pushPadded v).StackAt (r - 4) :=
  stackAt_congr (s := s.lowerStack 4) rfl (stackOffset_pushPadded s v) (stackAt_lower h hr (by norm_num))

/-- Where `StackAt` fixes the offset, it fixes how far apart two stack tops lie. -/
theorem stackLinear_of_stackAt {s t : State} {r n : Nat} (hs : s.StackAt r) (ht : t.StackAt (r - n))
    (hn : n ≤ r) (hr : r < s.stackSpan) (hspan : t.stackSpan = s.stackSpan)
    (hbase : t.stackBase = s.stackBase) : t.stackLinear + BitVec.ofNat 32 n = s.stackLinear := by
  unfold stackLinear
  rw [hbase, BitVec.add_assoc, BitVec.add_right_inj]
  apply BitVec.eq_of_toNat_eq
  have h1 := hs.2
  have h2 := ht.2
  rw [hspan] at h2
  rw [Nat.mod_eq_of_lt hr] at h1
  rw [Nat.mod_eq_of_lt (by omega)] at h2
  have := s.stackOffset.isLt
  rw [BitVec.toNat_add, BitVec.toNat_ofNat, h1, h2]
  omega

/-- The stack pointer after pushes that do not wrap is the one before, lowered by their bytes. -/
theorem esp_of_stackAt {t : State} {wide : Bool} {esp : DWord} {n : Nat} (hw : t.stackWide = wide)
    (hn : n ≤ roomTop wide esp + 1) (hat : t.StackAt (roomTop wide esp + 1 - n))
    (hhigh : wide = false → t.esp.extractLsb' 16 16 = esp.extractLsb' 16 16) :
    t.esp = lowered wide esp n := by
  have h := hat.2
  unfold stackSpan stackOffset sp at h
  unfold roomTop at h hn
  unfold lowered
  cases wide with
  | true =>
    simp only [hw, if_true] at h hn ⊢
    apply BitVec.eq_of_toNat_eq
    have := esp.isLt
    simp only [BitVec.toNat_sub, BitVec.toNat_ofNat] at h hn ⊢
    omega
  | false =>
    simp only [hw, Bool.false_eq_true, if_false] at h hn ⊢
    have hlow : t.esp.setWidth 16 = esp.setWidth 16 - BitVec.ofNat 16 n := by
      apply BitVec.eq_of_toNat_eq
      have := (esp.setWidth 16).isLt
      simp only [BitVec.toNat_sub, BitVec.toNat_ofNat, BitVec.toNat_setWidth] at h hn this ⊢
      omega
    rw [← hlow, ← hhigh rfl]
    ext i hi
    rw [BitVec.getElem_append]
    split
    · rw [BitVec.getElem_setWidth, BitVec.getLsbD_eq_getElem]
    · rw [BitVec.getElem_extractLsb', BitVec.getLsbD_eq_getElem (by omega)]
      congr 1
      omega

end State

/-! ### Places on the stack -/

theorem span_append {lin : DWord} {m n a : Nat} (h : a ∉ span lin (m + n)) :
    a ∉ span lin m ∧ a ∉ span (lin + BitVec.ofNat 32 m) n := by
  rw [State.not_mem_span] at h
  refine ⟨State.not_mem_span.2 fun k hk => h k (by omega), State.not_mem_span.2 fun k hk => ?_⟩
  have := h (m + k) (by omega)
  rwa [BitVec.ofNat_add, ← BitVec.add_assoc] at this

/-- Bytes above a run of `m` bytes are outside it. -/
theorem span_above {lin : DWord} {m n j a : Nat} (hj : m ≤ j) (hn : j + n ≤ 2 ^ 32)
    (ha : a ∈ span (lin + BitVec.ofNat 32 j) n) : a ∉ span lin m := by
  simp only [span, List.mem_map, List.mem_range] at ha
  obtain ⟨i, hi, rfl⟩ := ha
  rw [State.not_mem_span]
  intro k hk e
  have := BitVec.eq_of_toNat_eq e
  rw [BitVec.add_assoc, BitVec.add_right_inj] at this
  have := congrArg BitVec.toNat this
  simp only [BitVec.toNat_add, BitVec.toNat_ofNat] at this
  omega

/-- A slot holds in `t` what it holds in `s` at the same linear address, when the bytes agree there. -/
theorem slotHolds_congr {s t : State} {size : GateSize} {j k : Nat} {x : Slot}
    (hl : t.slotLinear size j = s.slotLinear size k)
    (hb : ∀ a ∈ span (s.slotLinear size k) 4, t.byteAt a = s.byteAt a)
    (h : SlotHolds s size k x) : SlotHolds t size j x := by
  have h16 : t.read16 (s.slotLinear size k) = s.read16 (s.slotLinear size k) :=
    State.read16_congr fun a ha => hb a (State.span_two_left ha)
  cases x with
  | word w =>
    show t.read16 _ = w
    rw [hl, h16]; exact h
  | value v =>
    cases size with
    | bits16 =>
      show (t.read16 _).setWidth 32 = _
      rw [hl, h16]; exact h
    | bits32 =>
      show t.read32 _ = v
      rw [hl, State.read32_congr hb]; exact h

/-! ### Runs of pushes -/

/-- From `s`, with `r` bytes below its stack pointer, pushes of one width led to `t`: the stack of `t` holds the
given slots, and no byte outside them changed. -/
structure Stacked (s t : State) (size : GateSize) (slots : List Slot) (r : Nat) : Prop where
  pe : t.pe = s.pe
  eflags : t.eflags = s.eflags
  ss : t.ss = s.ss
  fits : slots.length * size.bytes ≤ r
  start : s.StackAt r
  stands : t.StackAt (r - slots.length * size.bytes)
  high : s.stackWide = false → t.esp.extractLsb' 16 16 = s.esp.extractLsb' 16 16
  holds : HandlerStack t size slots
  outside : OnlyStored s t t.stackLinear (slots.length * size.bytes)

namespace Stacked

variable {s t u : State} {size : GateSize} {xs ys : List Slot} {r : Nat}

theorem refl (h : s.StackAt r) : Stacked s s size [] r where
  pe := rfl
  eflags := rfl
  ss := rfl
  fits := by simp
  start := h
  stands := by simpa using h
  high := fun _ => rfl
  holds := by intro k x hx; simp at hx
  outside := fun _ _ => rfl

theorem stackWide (h : Stacked s t size xs r) : t.stackWide = s.stackWide :=
  State.stackWide_congr h.pe h.eflags h.ss

theorem stackBase (h : Stacked s t size xs r) : t.stackBase = s.stackBase :=
  State.stackBase_congr h.pe h.eflags h.ss

theorem stackSpan (h : Stacked s t size xs r) : t.stackSpan = s.stackSpan := by
  unfold State.stackSpan; rw [h.stackWide]

end Stacked

/-- A slot reads no further than its own width allows. -/
theorem slotHolds_congr' {s t : State} {size : GateSize} {j k : Nat} {x : Slot}
    (hl : t.slotLinear size j = s.slotLinear size k)
    (hb : ∀ a ∈ span (s.slotLinear size k) size.bytes, t.byteAt a = s.byteAt a)
    (h : SlotHolds s size k x) : SlotHolds t size j x := by
  cases size with
  | bits32 => exact slotHolds_congr hl hb h
  | bits16 =>
    have h16 : t.read16 (s.slotLinear .bits16 k) = s.read16 (s.slotLinear .bits16 k) :=
      State.read16_congr hb
    cases x with
    | word w =>
      show t.read16 _ = w
      rw [hl, h16]; exact h
    | value v =>
      show (t.read16 _).setWidth 32 = _
      rw [hl, h16]; exact h

theorem GateSize.bytes_pos (size : GateSize) : 0 < size.bytes := by cases size <;> decide

theorem State.stackSpan_le (s : State) : s.stackSpan ≤ 2 ^ 32 := by
  unfold State.stackSpan; split <;> norm_num

/-- Runs of pushes compose: the later slots stand below the earlier ones. -/
theorem Stacked.trans {s t u : State} {size : GateSize} {xs ys : List Slot} {r : Nat}
    (h1 : Stacked s t size xs r) (h2 : Stacked t u size ys (r - xs.length * size.bytes)) :
    Stacked s u size (ys ++ xs) r := by
  have hlen : (ys ++ xs).length * size.bytes = ys.length * size.bytes + xs.length * size.bytes := by
    rw [List.length_append, Nat.add_mul]
  have f1 := h1.fits
  have f2 := h2.fits
  refine ⟨h2.pe.trans h1.pe, h2.eflags.trans h1.eflags, h2.ss.trans h1.ss, by omega, h1.start, ?_,
    fun hw => (h2.high (h1.stackWide.trans hw)).trans (h1.high hw), ?_, ?_⟩
  · rw [hlen, show r - (ys.length * size.bytes + xs.length * size.bytes)
      = r - xs.length * size.bytes - ys.length * size.bytes by omega]
    exact h2.stands
  · by_cases hx : xs = []
    · subst hx; simpa using h2.holds
    · have hpos : 0 < xs.length * size.bytes :=
        Nat.mul_pos (List.length_pos_iff.2 hx) size.bytes_pos
      have hlin := State.stackLinear_of_stackAt h1.stands h2.stands f2
        (by have := h1.start.1; rw [h1.stackSpan]; omega) h2.stackSpan h2.stackBase
      intro k x hk
      by_cases hky : k < ys.length
      · rw [List.getElem?_append_left hky] at hk
        exact h2.holds k x hk
      · rw [List.getElem?_append_right (by omega)] at hk
        have hkx : k - ys.length < xs.length := (List.getElem?_eq_some_iff.1 hk).1
        have hold := h1.holds _ x hk
        have hmul : k * size.bytes
            = ys.length * size.bytes + (k - ys.length) * size.bytes := by
          rw [← Nat.add_mul]; congr 1; omega
        have hkb : (k - ys.length) * size.bytes + size.bytes ≤ xs.length * size.bytes := by
          rw [← Nat.succ_mul]; exact Nat.mul_le_mul_right _ hkx
        refine slotHolds_congr' (k := k - ys.length) ?_ ?_ hold
        · unfold State.slotLinear
          rw [hmul, BitVec.ofNat_add, ← BitVec.add_assoc, hlin]
        · intro a ha
          apply h2.outside
          have e : t.slotLinear size (k - ys.length)
              = u.stackLinear + BitVec.ofNat 32 (k * size.bytes) := by
            unfold State.slotLinear
            rw [hmul, BitVec.ofNat_add, ← BitVec.add_assoc, hlin]
          rw [e] at ha
          have h32 := s.stackSpan_le
          have hr := h1.start.1
          exact span_above (by omega) (by omega) ha
  · intro a ha
    rw [hlen] at ha
    by_cases hx : xs = []
    · subst hx
      have hts : t.byteAt a = s.byteAt a := h1.outside a (by simp [span])
      rw [← hts]
      exact h2.outside a (by simpa using ha)
    · have hpos : 0 < xs.length * size.bytes :=
        Nat.mul_pos (List.length_pos_iff.2 hx) size.bytes_pos
      have hlin := State.stackLinear_of_stackAt h1.stands h2.stands f2
        (by have := h1.start.1; rw [h1.stackSpan]; omega) h2.stackSpan h2.stackBase
      obtain ⟨ha1, ha2⟩ := span_append ha
      rw [hlin] at ha2
      rw [h2.outside a ha1, h1.outside a ha2]

/-! ### The pushes of a transfer as runs -/

section Runs
variable {s : State} {r : Nat}

/-- A run of one push, from what that push does. -/
theorem stacked_one {t : State} {size : GateSize} {x : Slot} (hp : t.pe = s.pe) (hf : t.eflags = s.eflags)
    (hs : t.ss = s.ss) (he : t.esp = s.loweredEsp size.bytes) (h : s.StackAt r) (hr : size.bytes ≤ r) (hat : t.StackAt (r - size.bytes))
    (hx : t.slotLinear size 0 = t.stackLinear → SlotHolds t size 0 x)
    (ho : OnlyStored s t t.stackLinear size.bytes) : Stacked s t size [x] r where
  pe := hp
  eflags := hf
  ss := hs
  fits := by simpa using hr
  start := h
  stands := by simpa using hat
  high := fun hw => by rw [he]; exact State.loweredEsp_high hw
  holds := by
    intro k y hk
    cases k with
    | succ k => simp at hk
    | zero =>
      obtain rfl : x = y := by simpa using hk
      exact hx (by simp [State.slotLinear])
  outside := by simpa using ho

theorem stacked_push16 (v : Word) (h : s.StackAt r) (hr : 2 ≤ r) :
    Stacked s (s.push16 v) .bits16 [.word v] r :=
  stacked_one (State.push16_pe s v) (State.push16_eflags s v) (State.push16_ss s v) rfl h hr
    (State.stackAt_push16 v h hr)
    (fun e => by
      show (s.push16 v).read16 _ = v
      rw [e]; exact State.read16_push16 s v)
    (State.onlyStored_push16 s v)

theorem stacked_push16_value (v : DWord) (h : s.StackAt r) (hr : 2 ≤ r) :
    Stacked s (s.push16 (v.setWidth 16)) .bits16 [.value v] r :=
  stacked_one (State.push16_pe s _) (State.push16_eflags s _) (State.push16_ss s _) rfl h hr
    (State.stackAt_push16 _ h hr)
    (fun e => by
      show ((s.push16 (v.setWidth 16)).read16 _).setWidth 32 = (v.setWidth 16).setWidth 32
      rw [e, State.read16_push16])
    (State.onlyStored_push16 s _)

theorem stacked_push32 (v : DWord) (h : s.StackAt r) (hr : 4 ≤ r) :
    Stacked s (s.push32 v) .bits32 [.value v] r :=
  stacked_one (State.push32_pe s v) (State.push32_eflags s v) (State.push32_ss s v) rfl h hr
    (State.stackAt_push32 v h hr)
    (fun e => by
      show (s.push32 v).read32 _ = v
      rw [e]; exact State.read32_push32 s v)
    (State.onlyStored_push32 s v)

theorem stacked_pushPadded (v : Word) (h : s.StackAt r) (hr : 4 ≤ r) :
    Stacked s (s.pushPadded v) .bits32 [.word v] r :=
  stacked_one (State.pushPadded_pe s v) (State.pushPadded_eflags s v) (State.pushPadded_ss s v) rfl h hr
    (State.stackAt_pushPadded v h hr)
    (fun e => by
      show (s.pushPadded v).read16 _ = v
      rw [e]; exact State.read16_pushPadded s v)
    (State.onlyStored_pushPadded s v)

/-- Pushing FLAGS or EFLAGS puts one slot on the stack. -/
theorem stacked_pushFlags (size : GateSize) (v : DWord) (h : s.StackAt r) (hr : size.bytes ≤ r) :
    Stacked s (pushFlags size v s) size [.value v] r := by
  cases size with
  | bits16 => exact stacked_push16_value v h hr
  | bits32 => exact stacked_push32 v h hr

/-- Pushing a long pointer puts two slots on the stack, the offset below the selector. -/
theorem stacked_pushPointer (size : GateSize) (sel : Word) (off : DWord) (h : s.StackAt r)
    (hr : 2 * size.bytes ≤ r) :
    Stacked s (pushPointer size sel off s) size [.value off, .word sel] r := by
  cases size with
  | bits16 =>
    have h1 := stacked_push16 sel h (show 2 ≤ r by simp [GateSize.bytes] at hr; omega)
    exact h1.trans (stacked_push16_value off h1.stands (by simp [GateSize.bytes] at hr ⊢; omega))
  | bits32 =>
    have h1 := stacked_pushPadded sel h (show 4 ≤ r by simp [GateSize.bytes] at hr; omega)
    exact h1.trans (stacked_push32 off h1.stands (by simp [GateSize.bytes] at hr ⊢; omega))

theorem errorSlots_length (ev : Event) (size : GateSize) :
    (errorSlots ev).length * size.bytes = errorBytes ev size := by
  unfold errorSlots errorBytes
  cases ev.errcode <;> cases size <;> rfl

/-- Pushing the error code puts its slot, if any, on the stack. -/
theorem stacked_pushError (ev : Event) (size : GateSize) (h : s.StackAt r)
    (hr : errorBytes ev size ≤ r) : Stacked s (pushError ev size s) size (errorSlots ev) r := by
  unfold errorSlots pushError errorBytes at *
  cases he : ev.errcode with
  | none => simp only; exact Stacked.refl h
  | some code =>
    rw [he] at hr
    cases size with
    | bits16 => exact stacked_push16 code h hr
    | bits32 => exact stacked_pushPadded code h hr

end Runs

end Sys2Proof.Machine
end

