-- ==== Sys2Proof/Laws/Delivery.lean ====
section
/-! SUPPORT. Everything a delivery can do: how it ends in a completed transfer, in a shutdown, or with a raised
exception. Later proofs cite these lemmas and do not unfold `deliver`. -/

namespace Sys2Proof.Machine

/-- A transfer through an interrupt or trap gate in Protected Mode: the checks that passed, and the path. -/
inductive GateTransfer (ev : Event) (s t : State) (size : GateSize) (isInterrupt : Bool) : Prop where
  | inner (n : NewStack)
      (conf : Ar.isConforming (gateTarget s ev.vector size isInterrupt).code.ar = false)
      (dpl : Ar.dpl (gateTarget s ev.vector size isInterrupt).code.ar < s.privilege)
      (vm : s.vmFlag = false)
      (ready : StackReady s (gateTarget s ev.vector size isInterrupt)
        (Ar.dpl (gateTarget s ev.vector size isInterrupt).code.ar) (innerBytes size + errorBytes ev size) n)
      (result : t = innerTransfer ev (gateTarget s ev.vector size isInterrupt) n s)
  | fromV86 (n : NewStack)
      (conf : Ar.isConforming (gateTarget s ev.vector size isInterrupt).code.ar = false)
      (below : Ar.dpl (gateTarget s ev.vector size isInterrupt).code.ar < s.privilege)
      (vm : s.vmFlag = true)
      (dpl : Ar.dpl (gateTarget s ev.vector size isInterrupt).code.ar = 0#2)
      (wide : size = .bits32)
      (nt : s.nestedTaskFlag = false)
      (ready : StackReady s (gateTarget s ev.vector size isInterrupt) 0#2 (v86Bytes + errorBytes ev size) n)
      (result : t = v86Transfer ev (gateTarget s ev.vector size isInterrupt) n s)
  | same
      (notInner : ¬ (Ar.isConforming (gateTarget s ev.vector size isInterrupt).code.ar = false ∧
        Ar.dpl (gateTarget s ev.vector size isInterrupt).code.ar < s.privilege))
      (dpl : Ar.dpl (gateTarget s ev.vector size isInterrupt).code.ar ≤ s.privilege)
      (vm : s.vmFlag = false)
      (noWrap : RoomNotWrapping s.ss.inv.big s.esp (sameBytes size + errorBytes ev size))
      (room : StackRoom s.ss.inv s.ss.inv.big s.esp (sameBytes size + errorBytes ev size))
      (inCode : InSegment (gateTarget s ev.vector size isInterrupt).code
        (gateTarget s ev.vector size isInterrupt).offset.toNat 1)
      (accessed : Ar.accessed (gateTarget s ev.vector size isInterrupt).code.ar = true)
      (result : t = sameTransfer ev (gateTarget s ev.vector size isInterrupt) s)

/-- A gate delivery completes exactly as one of the three paths says. -/
theorem throughGate_transferred {ev : Event} {s t : State} {size : GateSize} {b : Bool} :
    throughGate ev s size b = .transferred t ↔
      codeChecks ev s (gateTarget s ev.vector size b) = .ok () ∧ GateTransfer ev s t size b := by
  unfold throughGate
  simp only [passing_transferred]
  constructor
  · rintro ⟨u, hc, p, hp, hk⟩
    refine ⟨hc, ?_⟩
    rcases (choosePath_ok ev s _ p).1 hp with ⟨rfl, h1, h2, h3⟩ | ⟨rfl, h1, h2, h3, h4, h5⟩ | ⟨rfl, h1, h2, h3⟩
    · simp only [passing_transferred] at hk
      obtain ⟨n, hn, hk⟩ := hk
      exact .inner n h1 h2 h3 ((stackChecks_ok ..).1 hn) (by simpa using hk.symm)
    · simp only [passing_transferred] at hk
      obtain ⟨n, hn, hk⟩ := hk
      obtain ⟨hnt, hr⟩ := (v86Checks_ok ..).1 hn
      exact .fromV86 n h1 h2 h3 h4 h5 hnt hr (by simpa using hk.symm)
    · simp only [passing_transferred] at hk
      obtain ⟨u, hu, hk⟩ := hk
      obtain ⟨hw, hr, hi, ha⟩ := (sameChecks_ok ..).1 hu
      exact .same h1 h2 h3 hw hr hi ha (by simpa using hk.symm)
  · rintro ⟨hc, h⟩
    refine ⟨(), hc, ?_⟩
    cases h with
    | inner n h1 h2 h3 hr ht =>
      exact ⟨.inner, (choosePath_ok ..).2 (.inl ⟨rfl, h1, h2, h3⟩), (passing_transferred).2
        ⟨n, (stackChecks_ok ..).2 hr, by rw [ht]⟩⟩
    | fromV86 n h1 h2 h3 h4 h5 hnt hr ht =>
      exact ⟨.fromV86, (choosePath_ok ..).2 (.inr (.inl ⟨rfl, h1, h2, h3, h4, h5⟩)), (passing_transferred).2
        ⟨n, (v86Checks_ok ..).2 ⟨hnt, hr⟩, by rw [ht]⟩⟩
    | same h1 h2 h3 hw hr hi ha ht =>
      exact ⟨.same, (choosePath_ok ..).2 (.inr (.inr ⟨rfl, h1, h2, h3⟩)), (passing_transferred).2
        ⟨(), (sameChecks_ok ..).2 ⟨hw, hr, hi, ha⟩, by rw [ht]⟩⟩

/-- A block without a raised exception at its own place raises in the state it began with (rule R135). -/
theorem throughGate_raised {ev : Event} {s t : State} {size : GateSize} {b : Bool} {e : Exc} {c : Word}
    (h : throughGate ev s size b = .raised t e c) : t = s := by
  unfold throughGate at h
  simp only [passing_raised] at h
  rcases h with ⟨_, h⟩ | ⟨_, _, h⟩
  · exact h.symm
  rcases h with ⟨_, h⟩ | ⟨p, _, h⟩
  · exact h.symm
  cases p <;> simp only [passing_raised] at h <;> rcases h with ⟨_, h⟩ | ⟨_, _, h⟩ <;>
    first | exact h.symm | cases h

theorem throughGate_not_shutDown {ev : Event} {s t : State} {size : GateSize} {b : Bool} :
    throughGate ev s size b ≠ .shutDown t := by
  unfold throughGate
  simp only [ne_eq, passing_shutDown, not_exists, not_and]
  intro _ _ p _ h
  cases p <;> simp only [passing_shutDown] at h <;> obtain ⟨_, _, h⟩ := h <;> cases h

/-! ### Task gates (rule R117) -/

/-- The state in which a delivery through a task gate finishes: the new task's, the error code pushed. -/
def inTask (ev : Event) (u : State) : State :=
  match ev.errcode with
  | none => u
  | some code => u.push16 code

/-- SWITCH-TASKS supplied a legal running state for the task gate of the event; `u` is that state with the model's
own records carried on. -/
structure TaskSwitched (ev : Event) (s u : State) : Prop where
  checks : taskChecks s (gateSelector (s.idtEntry ev.vector)) = .ok ()
  supplied : ∃ v, Config.switchTasks s (gateSelector (s.idtEntry ev.vector)) true = some v ∧ u = s.afterSwitch v
  legal : u.Legal
  running : u.shutdown = false
  noPaging : u.paging = false

/-- No address is forgotten in a task switch (rule R61, log entry 12). -/
theorem TaskSwitched.pushed {ev : Event} {s u : State} (h : TaskSwitched ev s u) : u.pushed = s.pushed := by
  obtain ⟨v, _, rfl⟩ := h.supplied
  rfl

theorem enterTask_transferred {s t : State} (h : enterTask s = .transferred t) : t = s := by
  unfold enterTask at h
  rw [passing_transferred] at h
  obtain ⟨_, _, h⟩ := h
  cases h; rfl

theorem enterTask_raised {s t : State} {e : Exc} {c : Word} (h : enterTask s = .raised t e c) : t = s := by
  unfold enterTask at h
  rw [passing_raised] at h
  rcases h with ⟨_, h⟩ | ⟨_, _, h⟩
  · exact h.symm
  · cases h

theorem finishTask_transferred {ev : Event} {s t : State} (h : finishTask ev s = .transferred t) :
    t = inTask ev s := by
  unfold finishTask at h
  unfold inTask
  cases he : ev.errcode with
  | none => rw [he] at h; exact enterTask_transferred h
  | some code =>
    rw [he] at h
    simp only [passing_transferred] at h
    obtain ⟨_, _, h⟩ := h
    exact enterTask_transferred h

theorem finishTask_raised {ev : Event} {s t : State} {e : Exc} {c : Word}
    (h : finishTask ev s = .raised t e c) : t = s ∨ t = inTask ev s := by
  unfold finishTask at h
  unfold inTask
  cases he : ev.errcode with
  | none => rw [he] at h; exact .inl (enterTask_raised h)
  | some code =>
    rw [he] at h
    simp only [passing_raised] at h
    rcases h with ⟨_, h⟩ | ⟨_, _, h⟩
    · exact .inl h.symm
    · exact .inr (enterTask_raised h)

theorem finishTask_not_shutDown {ev : Event} {s t : State} : finishTask ev s ≠ .shutDown t := by
  unfold finishTask enterTask
  intro h
  cases he : ev.errcode with
  | none =>
    rw [he] at h
    simp only [passing_shutDown] at h
    obtain ⟨_, _, h⟩ := h
    cases h
  | some code =>
    rw [he] at h
    simp only [passing_shutDown] at h
    obtain ⟨_, _, _, _, h⟩ := h
    cases h

theorem throughTaskGate_transferred {ev : Event} {s t : State} (h : throughTaskGate ev s = .transferred t) :
    ∃ u, TaskSwitched ev s u ∧ t = inTask ev u := by
  unfold throughTaskGate at h
  simp only [passing_transferred] at h
  obtain ⟨_, hc, h⟩ := h
  split at h
  · cases h
  · rename_i v hv
    split at h
    · rename_i hl
      exact ⟨_, ⟨hc, ⟨v, hv, rfl⟩, hl.1, hl.2.1, hl.2.2⟩, finishTask_transferred h⟩
    · cases h

theorem throughTaskGate_raised {ev : Event} {s t : State} {e : Exc} {c : Word}
    (h : throughTaskGate ev s = .raised t e c) :
    t = s ∨ ∃ u, TaskSwitched ev s u ∧ (t = u ∨ t = inTask ev u) := by
  unfold throughTaskGate at h
  simp only [passing_raised] at h
  rcases h with ⟨_, h⟩ | ⟨_, hc, h⟩
  · exact .inl h.symm
  split at h
  · cases h
  · rename_i v hv
    split at h
    · rename_i hl
      exact .inr ⟨_, ⟨hc, ⟨v, hv, rfl⟩, hl.1, hl.2.1, hl.2.2⟩, finishTask_raised h⟩
    · cases h

theorem throughTaskGate_not_shutDown {ev : Event} {s t : State} : throughTaskGate ev s ≠ .shutDown t := by
  unfold throughTaskGate
  simp only [ne_eq, passing_shutDown, not_exists, not_and]
  intro _ _ h
  split at h
  · cases h
  · split at h
    · exact finishTask_not_shutDown h
    · cases h

/-! ### The whole procedure -/

theorem deliverReal_transferred {ev : Event} {s t : State} :
    deliverReal ev s = .transferred t ↔
      s.ss.inv.big = false ∧ ¬ ShutdownStack s ∧ s.InRealIdt ev.vector ∧ t = realTransfer ev s := by
  unfold deliverReal
  by_cases h1 : s.ss.inv.big = true
  · simp [h1]
  · by_cases h2 : ShutdownStack s
    · simp [h1, h2]
    · by_cases h3 : s.InRealIdt ev.vector
      · rw [if_neg h1, if_neg h2, if_neg (not_not.2 h3)]
        simp only [Delivery.transferred.injEq]
        exact ⟨fun h => ⟨by simpa using h1, h2, h3, h.symm⟩, fun h => h.2.2.2.symm⟩
      · rw [if_neg h1, if_neg h2, if_pos h3]
        simp [h3]

theorem deliverReal_shutDown {ev : Event} {s t : State} :
    deliverReal ev s = .shutDown t ↔ s.ss.inv.big = false ∧ ShutdownStack s ∧ t = s.enterShutdown := by
  unfold deliverReal
  by_cases h1 : s.ss.inv.big = true
  · simp [h1]
  · by_cases h2 : ShutdownStack s
    · rw [if_neg h1, if_pos h2]
      simp only [Delivery.shutDown.injEq]
      exact ⟨fun h => ⟨by simpa using h1, h2, h.symm⟩, fun h => h.2.2.symm⟩
    · rw [if_neg h1, if_neg h2]
      split <;> simp [h2]

/-- Real Address Mode raises nothing (rule R103). -/
theorem deliverReal_not_raised {ev : Event} {s t : State} {e : Exc} {c : Word} :
    deliverReal ev s ≠ .raised t e c := by
  unfold deliverReal
  repeat' split
  all_goals simp

/-- Everything a completed delivery can be. -/
inductive Transferred (ev : Event) (s t : State) : Prop where
  | real (mode : s.pe = false) (narrow : s.ss.inv.big = false) (stack : ¬ ShutdownStack s)
      (inIdt : s.InRealIdt ev.vector) (result : t = realTransfer ev s)
  | gate (size : GateSize) (isInterrupt : Bool) (mode : s.pe = true)
      (kind : gateChecks ev s = .ok (GateKind.through size isInterrupt))
      (code : codeChecks ev s (gateTarget s ev.vector size isInterrupt) = .ok ())
      (path : GateTransfer ev s t size isInterrupt)
  | task (u : State) (mode : s.pe = true) (kind : gateChecks ev s = .ok .taskGate)
      (switched : TaskSwitched ev s u) (result : t = inTask ev u)

theorem deliver_eq_of_runs {ev : Event} {s : State} (hp : s.paging = false) (hm : ¬ s.IllegalMode) :
    deliver ev s = if s.pe = false then deliverReal ev s else deliverProtected ev s := by
  unfold deliver
  rw [if_neg (by simp [hp]), if_neg hm]

theorem deliver_runs {ev : Event} {s : State} (h : ∀ r, deliver ev s ≠ .refused r) :
    s.paging = false ∧ ¬ s.IllegalMode := by
  unfold deliver at h
  by_cases hp : s.paging = true
  · exact absurd (if_pos hp) (h _)
  · rw [if_neg hp] at h
    by_cases hm : s.IllegalMode
    · exact absurd (if_pos hm) (h _)
    · exact ⟨by simpa using hp, hm⟩

/-- THE INVERSION OF A COMPLETED DELIVERY: paging is off, the mode is legal, and one of the paths was taken. -/
theorem deliver_transferred {ev : Event} {s t : State} (h : deliver ev s = .transferred t) :
    s.paging = false ∧ ¬ s.IllegalMode ∧ Transferred ev s t := by
  obtain ⟨hp, hm⟩ := deliver_runs (ev := ev) (s := s) (by simp [h])
  refine ⟨hp, hm, ?_⟩
  rw [deliver_eq_of_runs hp hm] at h
  split at h
  · rename_i hpe
    obtain ⟨h1, h2, h3, h4⟩ := deliverReal_transferred.1 h
    exact .real hpe h1 h2 h3 h4
  · rename_i hpe
    have hpe : s.pe = true := by simpa using hpe
    unfold deliverProtected at h
    simp only [passing_transferred] at h
    obtain ⟨kind, hk, h⟩ := h
    cases kind with
    | taskGate =>
      obtain ⟨u, hu, ht⟩ := throughTaskGate_transferred h
      exact .task u hpe hk hu ht
    | interruptGate size =>
      obtain ⟨hc, hg⟩ := throughGate_transferred.1 h
      exact .gate size true hpe hk hc hg
    | trapGate size =>
      obtain ⟨hc, hg⟩ := throughGate_transferred.1 h
      exact .gate size false hpe hk hc hg

/-- A delivery through an interrupt or trap gate, from the checks that pass. -/
theorem deliver_through_gate {ev : Event} {s t : State} {size : GateSize} {b : Bool}
    (hp : s.paging = false) (hpe : s.pe = true)
    (hk : gateChecks ev s = .ok (GateKind.through size b))
    (hc : codeChecks ev s (gateTarget s ev.vector size b) = .ok ())
    (hg : GateTransfer ev s t size b) : deliver ev s = .transferred t := by
  rw [deliver_eq_of_runs hp (by simp [State.IllegalMode, hpe]), if_neg (by simp [hpe])]
  unfold deliverProtected
  rw [passing_transferred]
  refine ⟨_, hk, ?_⟩
  have := throughGate_transferred.2 ⟨hc, hg⟩
  cases b
  · exact this
  · exact this

/-- A delivery in Real Address Mode. -/
theorem deliver_real {ev : Event} {s : State} (hp : s.paging = false) (hm : ¬ s.IllegalMode)
    (hpe : s.pe = false) : deliver ev s = deliverReal ev s := by
  rw [deliver_eq_of_runs hp hm, if_pos hpe]

/-- A shutdown comes from Real Address Mode with SP = 1, 3 or 5 (rule R104). -/
theorem deliver_shutDown {ev : Event} {s t : State} (h : deliver ev s = .shutDown t) :
    s.pe = false ∧ s.ss.inv.big = false ∧ ShutdownStack s ∧ t = s.enterShutdown := by
  obtain ⟨hp, hm⟩ := deliver_runs (ev := ev) (s := s) (by simp [h])
  rw [deliver_eq_of_runs hp hm] at h
  split at h
  · rename_i hpe
    exact ⟨hpe, deliverReal_shutDown.1 h⟩
  · unfold deliverProtected at h
    simp only [passing_shutDown] at h
    obtain ⟨kind, _, h⟩ := h
    cases kind with
    | taskGate => exact absurd h throughTaskGate_not_shutDown
    | interruptGate size => exact absurd h throughGate_not_shutDown
    | trapGate size => exact absurd h throughGate_not_shutDown

/-- PRECISION (rule R135): a delivery that raises, raises in the state it began with; the one exception is a
task gate, whose last two steps raise after the task switch. -/
theorem deliver_raised {ev : Event} {s t : State} {e : Exc} {c : Word} (h : deliver ev s = .raised t e c) :
    s.pe = true ∧ s.paging = false ∧
      (t = s ∨ (gateChecks ev s = .ok .taskGate ∧
        ∃ u, TaskSwitched ev s u ∧ (t = u ∨ t = inTask ev u))) := by
  obtain ⟨hp, hm⟩ := deliver_runs (ev := ev) (s := s) (by simp [h])
  rw [deliver_eq_of_runs hp hm] at h
  split at h
  · exact absurd h deliverReal_not_raised
  · rename_i hpe
    refine ⟨by simpa using hpe, hp, ?_⟩
    unfold deliverProtected at h
    simp only [passing_raised] at h
    rcases h with ⟨_, h⟩ | ⟨kind, hk, h⟩
    · exact .inl h.symm
    cases kind with
    | taskGate =>
      rcases throughTaskGate_raised h with h | h
      · exact .inl h
      · exact .inr ⟨hk, h⟩
    | interruptGate size => exact .inl (throughGate_raised h)
    | trapGate size => exact .inl (throughGate_raised h)

/-! ### Interrupts: a delivery, and a raised exception delivered once (rule R131) -/

/-- Everything taking an exception can do when it answers a next state. -/
theorem raiseException_next {e : Exc} {c : Word} {origin s t : State} (h : raiseException e c origin s = .next t) :
    deliver (exceptionEvent e c origin) s = .transferred t ∨
      deliver (exceptionEvent e c origin) s = .shutDown t := by
  unfold raiseException at h
  split at h <;> simp_all

/-- Everything taking an interrupt can do when it answers a next state: its own delivery ended so, or it raised
an exception, not being one itself, and that exception's delivery, which returns to where the interrupt began, ended
so. -/
theorem interrupt_next {ev : Event} {s t : State} (h : interrupt ev s = .next t) :
    (deliver ev s = .transferred t ∨ deliver ev s = .shutDown t) ∨
      (ev.nested = false ∧ ∃ u e c, deliver ev s = .raised u e c ∧
        (deliver (exceptionEvent e c s) u = .transferred t ∨
          deliver (exceptionEvent e c s) u = .shutDown t)) := by
  unfold interrupt at h
  split at h
  · rename_i t' heq; cases h; exact .inl (.inl heq)
  · rename_i t' heq; cases h; exact .inl (.inr heq)
  · cases h
  · rename_i u e c heq
    split at h
    · cases h
    · rename_i hn
      exact .inr ⟨by simpa using hn, u, e, c, heq, raiseException_next h⟩

theorem interrupt_of_transferred {ev : Event} {s t : State} (h : deliver ev s = .transferred t) :
    interrupt ev s = .next t := by
  unfold interrupt; rw [h]

theorem interrupt_of_shutDown {ev : Event} {s t : State} (h : deliver ev s = .shutDown t) :
    interrupt ev s = .next t := by
  unfold interrupt; rw [h]

theorem interrupt_of_raised {ev : Event} {s u : State} {e : Exc} {c : Word} (hn : ev.nested = false)
    (h : deliver ev s = .raised u e c) : interrupt ev s = raiseException e c s u := by
  unfold interrupt; rw [h]; simp [hn]

end Sys2Proof.Machine
end

