-- ==== Sys2Proof/Laws/Exec.lean ====
section
/-! SUPPORT. What an instruction and a step can do: the front end of every meaning, the inversion of `exec`, and the
inversion of `step`. Later proofs cite these lemmas and do not unfold the meanings. -/

namespace Sys2Proof.Machine

/-! ### What blocks the processor -/

theorem blocked_none {s : State} :
    blocked s = none ↔ s.shutdown = false ∧ s.paging = false ∧ ¬ s.IllegalMode ∧ s.trapFlag = false := by
  unfold blocked
  split
  · simp_all
  · split
    · simp_all
    · split
      · rename_i h
        exact ⟨fun h' => (nomatch h'), fun h' => absurd h h'.2.2.1⟩
      · rename_i h
        simp_all

/-- What blocks the processor never lets it go on. -/
theorem blocked_not_next {s t : State} : blocked s ≠ some (.next t) := by
  unfold blocked
  repeat' split
  all_goals simp

theorem Runnable.notBlocked {s : State} {len : Nat} (h : Runnable s len) : blocked s = none :=
  blocked_none.2 ⟨h.running, h.noPaging, h.legalMode, h.noTrap⟩

theorem runnable_iff {s : State} {len : Nat} : Runnable s len ↔ blocked s = none ∧ s.NextFits len :=
  ⟨fun h => ⟨h.notBlocked, h.fits⟩, fun ⟨h, hf⟩ =>
    have ⟨h1, h2, h3, h4⟩ := blocked_none.1 h
    ⟨h1, h2, h3, h4, hf⟩⟩

theorem execute_of_runnable {s : State} {len : Nat} {o : Host.Outcome State Fault Refusal}
    (h : Runnable s len) : execute len s o = o := by
  simp only [execute, h.notBlocked, if_pos h.fits]

theorem execute_next {s t : State} {len : Nat} {o : Host.Outcome State Fault Refusal} :
    execute len s o = .next t ↔ Runnable s len ∧ o = .next t := by
  refine ⟨fun h => ?_, fun ⟨h, ho⟩ => by rw [execute_of_runnable h, ho]⟩
  unfold execute at h
  split at h
  · rename_i o' ho
    exact absurd (h ▸ ho) blocked_not_next
  · rename_i hb
    split at h
    · rename_i hf
      exact ⟨runnable_iff.2 ⟨hb, hf⟩, h⟩
    · cases h

/-! ### The three meanings on a state that may run them -/

theorem exec_int3 {s : State} (h : Runnable s 1) : exec .int3 s = softInt 3#8 1 s := execute_of_runnable h

theorem exec_intImm8 {s : State} {imm8 : Nat} (h : Runnable s 2) :
    exec (.intImm8 imm8) s =
      if s.mode = .v86 ∧ s.iopl < 3 then raiseException .gp 0#16 s s else softInt (BitVec.ofNat 8 imm8) 2 s :=
  execute_of_runnable h

theorem exec_into {s : State} (h : Runnable s 1) :
    exec .into s = if s.overflowFlag = true then softInt 4#8 1 s else .next { s with eip := s.nextEip 1 } :=
  execute_of_runnable h

/-- An instruction that makes an interrupt is that interrupt. -/
theorem exec_of_interrupt {i : Instr} {s : State} {n : Byte} (h : Runnable s i.length)
    (hn : interruptOf s i = some n) : exec i s = softInt n i.length s := by
  cases i with
  | int3 => cases hn; exact exec_int3 h
  | intImm8 imm8 =>
    simp only [interruptOf] at hn
    split at hn
    · cases hn
    · rename_i hm
      cases hn
      exact (exec_intImm8 h).trans (if_neg hm)
  | into =>
    simp only [interruptOf] at hn
    split at hn
    · rename_i ho
      cases hn
      exact (exec_into h).trans (if_pos ho)
    · cases hn

/-- THE INVERSION OF `exec`: the state may run the instruction, and either the instruction's interrupt was made, or
it is `INTO` with OF = 0, or `INT imm8` in Virtual 8086 Mode with IOPL less than 3. -/
theorem exec_next {i : Instr} {s t : State} (h : exec i s = .next t) :
    Runnable s i.length ∧
      ((∃ n, interruptOf s i = some n ∧ softInt n i.length s = .next t) ∨
        (i = .into ∧ s.overflowFlag = false ∧ t = { s with eip := s.nextEip 1 }) ∨
        (∃ imm8, i = .intImm8 imm8 ∧ s.mode = .v86 ∧ s.iopl < 3 ∧ raiseException .gp 0#16 s s = .next t)) := by
  cases i with
  | int3 =>
    obtain ⟨hr, h⟩ := execute_next.1 h
    exact ⟨hr, .inl ⟨_, rfl, h⟩⟩
  | intImm8 imm8 =>
    obtain ⟨hr, h⟩ := execute_next.1 h
    refine ⟨hr, ?_⟩
    split at h
    · rename_i hm
      exact .inr (.inr ⟨imm8, rfl, hm.1, hm.2, h⟩)
    · rename_i hm
      exact .inl ⟨_, if_neg hm, h⟩
  | into =>
    obtain ⟨hr, h⟩ := execute_next.1 h
    refine ⟨hr, ?_⟩
    split at h
    · rename_i ho
      exact .inl ⟨_, if_pos ho, h⟩
    · rename_i ho
      cases h
      exact .inr (.inl ⟨rfl, by simpa using ho, rfl⟩)

/-! ### A step -/

theorem step_of_fetch {s : State} {i : Instr} (hb : blocked s = none) (h : fetchInstr s = .ok i) :
    step s = exec i s := by
  simp only [step, hb, h]

/-- THE INVERSION OF `step`. -/
theorem step_next {s t : State} (h : step s = .next t) :
    ∃ i, fetchInstr s = .ok i ∧ exec i s = .next t := by
  unfold step at h
  split at h
  · rename_i o ho
    exact absurd (h ▸ ho) blocked_not_next
  · split at h
    · cases h
    · rename_i i hi
      exact ⟨i, hi, h⟩

/-! ### The decoder -/

theorem decode_int3 (rest : List Byte) : decode (opcodeInt3 :: rest) = .ok (.int3, rest) := rfl

theorem decode_intImm8 (b : Byte) (rest : List Byte) :
    decode (opcodeIntImm8 :: b :: rest) = .ok (.intImm8 b.toNat, rest) := rfl

theorem decode_into (rest : List Byte) : decode (opcodeInto :: rest) = .ok (.into, rest) := rfl

theorem wellFormed_intImm8 {imm8 : Nat} : (Instr.intImm8 imm8).wellFormed = true ↔ imm8 < 256 :=
  ⟨of_decide_eq_true, decide_eq_true⟩

/-- Every instruction the decoder reads is well formed. -/
theorem decode_wellFormed {bytes rest : List Byte} {i : Instr} (h : decode bytes = .ok (i, rest)) :
    i.wellFormed = true := by
  unfold decode at h
  split at h
  · cases h
  · split at h
    · cases h; rfl
    · split at h
      · cases h; rfl
      · split at h
        · split at h
          · cases h
          · cases h
            rename_i b
            exact decide_eq_true b.isLt
        · cases h

end Sys2Proof.Machine
end

