-- ==== Sys2Proof/Laws/Fetch.lean ====
section
/-! SUPPORT. The fetch: what placing an instruction's bytes at CS:EIP leaves, and when the fetch answers. -/

namespace Sys2Proof.Machine

theorem Instr.length_pos (i : Instr) : 1 ≤ i.length := by cases i <;> simp [Instr.length]

theorem Instr.length_le (i : Instr) : i.length ≤ 2 := by cases i <;> simp [Instr.length]

/-- A longer run of bytes inside the limit holds its first byte. -/
theorem fetchInLimit_one {s : State} {n : Nat} (hn : 1 ≤ n) (h : s.FetchInLimit n) : s.FetchInLimit 1 := by
  unfold State.FetchInLimit InSegment at *
  split at h <;> rename_i hx <;> simp only [hx] <;> simp <;> omega

/-- The fetch answers the decoded instruction whose bytes pass the limit and were not pushed. -/
theorem fetchInstr_ok {s : State} {i : Instr} {rest : List Byte} (hd : decode s.fetchBytes = .ok (i, rest))
    (hf : s.FetchInLimit i.length) (hp : s.FetchNotPushed i.length) : fetchInstr s = .ok i := by
  have h1 := fetchInLimit_one (Instr.length_pos i) hf
  simp only [fetchInstr, h1, hd, hf, not_true, if_false]
  exact if_neg (not_not.2 hp)

/-- The two bytes at CS:EIP stand at different addresses. -/
theorem fetchLinear_ne (s : State) : (s.fetchLinear 0).toNat ≠ (s.fetchLinear 1).toNat := by
  intro h
  have h := BitVec.eq_of_toNat_eq h
  have h1 : s.fetchLinear 1 = s.fetchLinear 0 + 1 := by
    simp only [State.fetchLinear, BitVec.ofNat_eq_ofNat, BitVec.add_zero, BitVec.add_assoc]
  exact State.add_ne_self (by decide) (h1.symm.trans h.symm)

/-- A word placed at CS:EIP as its two bytes. -/
theorem withFetchWord_eq (s : State) (nbits w : Nat) :
    s.withFetchWord nbits w = { s with
      mem := ((s.setByte (s.fetchLinear 0).toNat (BitVec.ofNat 8 (w % 2 ^ nbits))).setByte
        (s.fetchLinear 1).toNat (BitVec.ofNat 8 (w % 2 ^ nbits / 256))).mem
      free := ((s.setByte (s.fetchLinear 0).toNat (BitVec.ofNat 8 (w % 2 ^ nbits))).setByte
        (s.fetchLinear 1).toNat (BitVec.ofNat 8 (w % 2 ^ nbits / 256))).free
      pushed := (s.pushed.filter (fun c => c ≠ (s.fetchLinear 0).toNat)).filter
        (fun c => c ≠ (s.fetchLinear 1).toNat) } := rfl

end Sys2Proof.Machine
end

