-- ==== Sys2Proof/Laws/General.lean ====
section
/-! SUPPORT. The general registers other than ESP stand apart (rule R28): every operation of a delivery does the same
to the rest of the state whatever they hold. -/

namespace Sys2Proof.Machine

/-- The state with other contents of the seven general registers. -/
def State.withGpr (s : State) (g : GeneralRegs) : State := { s with gpr := g }

namespace State

variable (s : State) (g : GeneralRegs)

theorem push16_withGpr (v : Word) : (s.withGpr g).push16 v = (s.push16 v).withGpr g := rfl

theorem push32_withGpr (v : DWord) : (s.withGpr g).push32 v = (s.push32 v).withGpr g := rfl

theorem pushPadded_withGpr (v : Word) : (s.withGpr g).pushPadded v = (s.pushPadded v).withGpr g := rfl

theorem mapFlags_withGpr (f : DWord → DWord) : (s.withGpr g).mapFlags f = (s.mapFlags f).withGpr g := rfl

theorem withCode_withGpr (c : SegReg) (e : DWord) : (s.withGpr g).withCode c e = (s.withCode c e).withGpr g := rfl

theorem withStack_withGpr (c : SegReg) (e : DWord) : (s.withGpr g).withStack c e = (s.withStack c e).withGpr g := rfl

theorem withPrivilege_withGpr (k : BitVec 2) :
    (s.withGpr g).withPrivilege k = (s.withPrivilege k).withGpr g := rfl

theorem withNullDataSegments_withGpr :
    (s.withGpr g).withNullDataSegments = s.withNullDataSegments.withGpr g := rfl

end State

variable (s : State) (g : GeneralRegs)

theorem pushPointer_withGpr (size : GateSize) (v : Word) (w : DWord) :
    pushPointer size v w (s.withGpr g) = (pushPointer size v w s).withGpr g := by
  cases size <;> simp only [pushPointer, State.push16_withGpr, State.push32_withGpr, State.pushPadded_withGpr]

theorem pushFlags_withGpr (size : GateSize) (v : DWord) :
    pushFlags size v (s.withGpr g) = (pushFlags size v s).withGpr g := by
  cases size <;> simp only [pushFlags, State.push16_withGpr, State.push32_withGpr]

theorem pushError_withGpr (ev : Event) (size : GateSize) :
    pushError ev size (s.withGpr g) = (pushError ev size s).withGpr g := by
  unfold pushError
  split <;> simp only [State.push16_withGpr, State.pushPadded_withGpr]

theorem sameTransfer_withGpr (ev : Event) (t : Target) :
    sameTransfer ev t (s.withGpr g) = (sameTransfer ev t s).withGpr g := by
  have hf : (s.withGpr g).eflags = s.eflags := rfl
  have hp : (s.withGpr g).privilege = s.privilege := rfl
  simp only [sameTransfer, hf, hp, pushFlags_withGpr, pushPointer_withGpr, State.withCode_withGpr,
    pushError_withGpr, State.mapFlags_withGpr]

theorem innerTransfer_withGpr (ev : Event) (t : Target) (n : NewStack) :
    innerTransfer ev t n (s.withGpr g) = (innerTransfer ev t n s).withGpr g := by
  have hf : (s.withGpr g).eflags = s.eflags := rfl
  have hs : (s.withGpr g).ss = s.ss := rfl
  have he : (s.withGpr g).esp = s.esp := rfl
  simp only [innerTransfer, hf, hs, he, State.withStack_withGpr, pushFlags_withGpr, pushPointer_withGpr,
    State.withCode_withGpr, pushError_withGpr, State.withPrivilege_withGpr, State.mapFlags_withGpr]

theorem v86Transfer_withGpr (ev : Event) (t : Target) (n : NewStack) :
    v86Transfer ev t n (s.withGpr g) = (v86Transfer ev t n s).withGpr g := by
  have hf : (s.withGpr g).eflags = s.eflags := rfl
  have hs : (s.withGpr g).ss = s.ss := rfl
  have he : (s.withGpr g).esp = s.esp := rfl
  have hd : ∀ u : State, pushDataSegments (u.withGpr g) = (pushDataSegments u).withGpr g := fun u => by
    have h1 : (u.withGpr g).gs = u.gs := rfl
    have h2 : (u.withGpr g).fs = u.fs := rfl
    have h3 : (u.withGpr g).ds = u.ds := rfl
    have h4 : (u.withGpr g).es = u.es := rfl
    simp only [pushDataSegments, h1, h2, h3, h4, State.pushPadded_withGpr, State.withNullDataSegments_withGpr]
  simp only [v86Transfer, hf, hs, he, State.mapFlags_withGpr, State.withStack_withGpr, hd, pushFlags_withGpr,
    pushPointer_withGpr, State.withCode_withGpr, State.withPrivilege_withGpr, pushError_withGpr]

theorem realTransfer_withGpr (ev : Event) :
    realTransfer ev (s.withGpr g) = (realTransfer ev s).withGpr g := rfl

/-! No check reads a general register. -/

theorem gateChecks_withGpr (ev : Event) : gateChecks ev (s.withGpr g) = gateChecks ev s := rfl

theorem gateTarget_withGpr (vector : Byte) (size : GateSize) (b : Bool) :
    gateTarget (s.withGpr g) vector size b = gateTarget s vector size b := rfl

theorem codeChecks_withGpr (ev : Event) (t : Target) : codeChecks ev (s.withGpr g) t = codeChecks ev s t := rfl

theorem choosePath_withGpr (ev : Event) (t : Target) : choosePath ev (s.withGpr g) t = choosePath ev s t := rfl

theorem stackChecks_withGpr (ev : Event) (t : Target) (k : BitVec 2) (need : Nat) :
    stackChecks ev (s.withGpr g) t k need = stackChecks ev s t k need := rfl

theorem v86Checks_withGpr (ev : Event) (t : Target) : v86Checks ev (s.withGpr g) t = v86Checks ev s t := rfl

theorem sameChecks_withGpr (ev : Event) (t : Target) : sameChecks ev (s.withGpr g) t = sameChecks ev s t := rfl

end Sys2Proof.Machine
end

