-- ==== Sys2Proof/Laws/Transfer.lean ====
section
/-! SUPPORT. The results of the four transfers: one lemma per field, the handler's stack, the bytes stored, and
that the state stays legal. -/

namespace Sys2Proof.Machine

/-! ### `sameTransfer` -/

@[simp] theorem sameTransfer_gpr (ev : Event) (t : Target) (s : State) :
    (sameTransfer ev t s).gpr = s.gpr := by simp [sameTransfer]
@[simp] theorem sameTransfer_eip (ev : Event) (t : Target) (s : State) :
    (sameTransfer ev t s).eip = t.offset := by simp [sameTransfer]
@[simp] theorem sameTransfer_eflags (ev : Event) (t : Target) (s : State) :
    (sameTransfer ev t s).eflags = Flags.afterGateEntry t.isInterrupt s.eflags := by simp [sameTransfer]
@[simp] theorem sameTransfer_pe (ev : Event) (t : Target) (s : State) :
    (sameTransfer ev t s).pe = s.pe := by simp [sameTransfer]
@[simp] theorem sameTransfer_cpl (ev : Event) (t : Target) (s : State) :
    (sameTransfer ev t s).cpl = s.cpl := by simp [sameTransfer]
@[simp] theorem sameTransfer_paging (ev : Event) (t : Target) (s : State) :
    (sameTransfer ev t s).paging = s.paging := by simp [sameTransfer]
@[simp] theorem sameTransfer_cs (ev : Event) (t : Target) (s : State) :
    (sameTransfer ev t s).cs = { selector := Selector.withRpl t.selector s.privilege, inv := t.code } := by simp [sameTransfer]
@[simp] theorem sameTransfer_ss (ev : Event) (t : Target) (s : State) :
    (sameTransfer ev t s).ss = s.ss := by simp [sameTransfer]
@[simp] theorem sameTransfer_ds (ev : Event) (t : Target) (s : State) :
    (sameTransfer ev t s).ds = s.ds := by simp [sameTransfer]
@[simp] theorem sameTransfer_es (ev : Event) (t : Target) (s : State) :
    (sameTransfer ev t s).es = s.es := by simp [sameTransfer]
@[simp] theorem sameTransfer_fs (ev : Event) (t : Target) (s : State) :
    (sameTransfer ev t s).fs = s.fs := by simp [sameTransfer]
@[simp] theorem sameTransfer_gs (ev : Event) (t : Target) (s : State) :
    (sameTransfer ev t s).gs = s.gs := by simp [sameTransfer]
@[simp] theorem sameTransfer_idtr (ev : Event) (t : Target) (s : State) :
    (sameTransfer ev t s).idtr = s.idtr := by simp [sameTransfer]
@[simp] theorem sameTransfer_gdtr (ev : Event) (t : Target) (s : State) :
    (sameTransfer ev t s).gdtr = s.gdtr := by simp [sameTransfer]
@[simp] theorem sameTransfer_ldtr (ev : Event) (t : Target) (s : State) :
    (sameTransfer ev t s).ldtr = s.ldtr := by simp [sameTransfer]
@[simp] theorem sameTransfer_tr (ev : Event) (t : Target) (s : State) :
    (sameTransfer ev t s).tr = s.tr := by simp [sameTransfer]
@[simp] theorem sameTransfer_shutdown (ev : Event) (t : Target) (s : State) :
    (sameTransfer ev t s).shutdown = s.shutdown := by simp [sameTransfer]

/-! ### `innerTransfer` -/

@[simp] theorem innerTransfer_gpr (ev : Event) (t : Target) (n : NewStack) (s : State) :
    (innerTransfer ev t n s).gpr = s.gpr := by simp [innerTransfer]
@[simp] theorem innerTransfer_eip (ev : Event) (t : Target) (n : NewStack) (s : State) :
    (innerTransfer ev t n s).eip = t.offset := by simp [innerTransfer]
@[simp] theorem innerTransfer_eflags (ev : Event) (t : Target) (n : NewStack) (s : State) :
    (innerTransfer ev t n s).eflags = Flags.afterGateEntry t.isInterrupt s.eflags := by simp [innerTransfer]
@[simp] theorem innerTransfer_pe (ev : Event) (t : Target) (n : NewStack) (s : State) :
    (innerTransfer ev t n s).pe = s.pe := by simp [innerTransfer]
@[simp] theorem innerTransfer_cpl (ev : Event) (t : Target) (n : NewStack) (s : State) :
    (innerTransfer ev t n s).cpl = Ar.dpl t.code.ar := by simp [innerTransfer]
@[simp] theorem innerTransfer_paging (ev : Event) (t : Target) (n : NewStack) (s : State) :
    (innerTransfer ev t n s).paging = s.paging := by simp [innerTransfer]
@[simp] theorem innerTransfer_cs (ev : Event) (t : Target) (n : NewStack) (s : State) :
    (innerTransfer ev t n s).cs = { selector := Selector.withRpl t.selector (Ar.dpl t.code.ar), inv := t.code } := by simp [innerTransfer]
@[simp] theorem innerTransfer_ss (ev : Event) (t : Target) (n : NewStack) (s : State) :
    (innerTransfer ev t n s).ss = { selector := n.selector, inv := n.inv } := by simp [innerTransfer]
@[simp] theorem innerTransfer_ds (ev : Event) (t : Target) (n : NewStack) (s : State) :
    (innerTransfer ev t n s).ds = s.ds := by simp [innerTransfer]
@[simp] theorem innerTransfer_es (ev : Event) (t : Target) (n : NewStack) (s : State) :
    (innerTransfer ev t n s).es = s.es := by simp [innerTransfer]
@[simp] theorem innerTransfer_fs (ev : Event) (t : Target) (n : NewStack) (s : State) :
    (innerTransfer ev t n s).fs = s.fs := by simp [innerTransfer]
@[simp] theorem innerTransfer_gs (ev : Event) (t : Target) (n : NewStack) (s : State) :
    (innerTransfer ev t n s).gs = s.gs := by simp [innerTransfer]
@[simp] theorem innerTransfer_idtr (ev : Event) (t : Target) (n : NewStack) (s : State) :
    (innerTransfer ev t n s).idtr = s.idtr := by simp [innerTransfer]
@[simp] theorem innerTransfer_gdtr (ev : Event) (t : Target) (n : NewStack) (s : State) :
    (innerTransfer ev t n s).gdtr = s.gdtr := by simp [innerTransfer]
@[simp] theorem innerTransfer_ldtr (ev : Event) (t : Target) (n : NewStack) (s : State) :
    (innerTransfer ev t n s).ldtr = s.ldtr := by simp [innerTransfer]
@[simp] theorem innerTransfer_tr (ev : Event) (t : Target) (n : NewStack) (s : State) :
    (innerTransfer ev t n s).tr = s.tr := by simp [innerTransfer]
@[simp] theorem innerTransfer_shutdown (ev : Event) (t : Target) (n : NewStack) (s : State) :
    (innerTransfer ev t n s).shutdown = s.shutdown := by simp [innerTransfer]

/-! ### `v86Transfer` -/

@[simp] theorem v86Transfer_gpr (ev : Event) (t : Target) (n : NewStack) (s : State) :
    (v86Transfer ev t n s).gpr = s.gpr := by simp [v86Transfer]
@[simp] theorem v86Transfer_eip (ev : Event) (t : Target) (n : NewStack) (s : State) :
    (v86Transfer ev t n s).eip = t.offset := by simp [v86Transfer]
@[simp] theorem v86Transfer_eflags (ev : Event) (t : Target) (n : NewStack) (s : State) :
    (v86Transfer ev t n s).eflags = Flags.afterV86Entry t.isInterrupt s.eflags := by simp [v86Transfer]
@[simp] theorem v86Transfer_pe (ev : Event) (t : Target) (n : NewStack) (s : State) :
    (v86Transfer ev t n s).pe = s.pe := by simp [v86Transfer]
@[simp] theorem v86Transfer_cpl (ev : Event) (t : Target) (n : NewStack) (s : State) :
    (v86Transfer ev t n s).cpl = 0#2 := by simp [v86Transfer]
@[simp] theorem v86Transfer_paging (ev : Event) (t : Target) (n : NewStack) (s : State) :
    (v86Transfer ev t n s).paging = s.paging := by simp [v86Transfer]
@[simp] theorem v86Transfer_cs (ev : Event) (t : Target) (n : NewStack) (s : State) :
    (v86Transfer ev t n s).cs = { selector := Selector.withRpl t.selector 0#2, inv := t.code } := by simp [v86Transfer]
@[simp] theorem v86Transfer_ss (ev : Event) (t : Target) (n : NewStack) (s : State) :
    (v86Transfer ev t n s).ss = { selector := n.selector, inv := n.inv } := by simp [v86Transfer]
@[simp] theorem v86Transfer_ds (ev : Event) (t : Target) (n : NewStack) (s : State) :
    (v86Transfer ev t n s).ds = { selector := 0#16, inv := none } := by simp [v86Transfer]
@[simp] theorem v86Transfer_es (ev : Event) (t : Target) (n : NewStack) (s : State) :
    (v86Transfer ev t n s).es = { selector := 0#16, inv := none } := by simp [v86Transfer]
@[simp] theorem v86Transfer_fs (ev : Event) (t : Target) (n : NewStack) (s : State) :
    (v86Transfer ev t n s).fs = { selector := 0#16, inv := none } := by simp [v86Transfer]
@[simp] theorem v86Transfer_gs (ev : Event) (t : Target) (n : NewStack) (s : State) :
    (v86Transfer ev t n s).gs = { selector := 0#16, inv := none } := by simp [v86Transfer]
@[simp] theorem v86Transfer_idtr (ev : Event) (t : Target) (n : NewStack) (s : State) :
    (v86Transfer ev t n s).idtr = s.idtr := by simp [v86Transfer]
@[simp] theorem v86Transfer_gdtr (ev : Event) (t : Target) (n : NewStack) (s : State) :
    (v86Transfer ev t n s).gdtr = s.gdtr := by simp [v86Transfer]
@[simp] theorem v86Transfer_ldtr (ev : Event) (t : Target) (n : NewStack) (s : State) :
    (v86Transfer ev t n s).ldtr = s.ldtr := by simp [v86Transfer]
@[simp] theorem v86Transfer_tr (ev : Event) (t : Target) (n : NewStack) (s : State) :
    (v86Transfer ev t n s).tr = s.tr := by simp [v86Transfer]
@[simp] theorem v86Transfer_shutdown (ev : Event) (t : Target) (n : NewStack) (s : State) :
    (v86Transfer ev t n s).shutdown = s.shutdown := by simp [v86Transfer]

/-! ### `realPushed` and `realTransfer` -/

@[simp] theorem realPushed_gpr (ev : Event) (s : State) :
    (realPushed ev s).gpr = s.gpr := by simp [realPushed]
@[simp] theorem realPushed_eip (ev : Event) (s : State) :
    (realPushed ev s).eip = s.eip := by simp [realPushed]
@[simp] theorem realPushed_eflags (ev : Event) (s : State) :
    (realPushed ev s).eflags = Flags.afterRealEntry s.eflags := by simp [realPushed]
@[simp] theorem realPushed_pe (ev : Event) (s : State) :
    (realPushed ev s).pe = s.pe := by simp [realPushed]
@[simp] theorem realPushed_cpl (ev : Event) (s : State) :
    (realPushed ev s).cpl = s.cpl := by simp [realPushed]
@[simp] theorem realPushed_paging (ev : Event) (s : State) :
    (realPushed ev s).paging = s.paging := by simp [realPushed]
@[simp] theorem realPushed_cs (ev : Event) (s : State) :
    (realPushed ev s).cs = s.cs := by simp [realPushed]
@[simp] theorem realPushed_ss (ev : Event) (s : State) :
    (realPushed ev s).ss = s.ss := by simp [realPushed]
@[simp] theorem realPushed_ds (ev : Event) (s : State) :
    (realPushed ev s).ds = s.ds := by simp [realPushed]
@[simp] theorem realPushed_es (ev : Event) (s : State) :
    (realPushed ev s).es = s.es := by simp [realPushed]
@[simp] theorem realPushed_fs (ev : Event) (s : State) :
    (realPushed ev s).fs = s.fs := by simp [realPushed]
@[simp] theorem realPushed_gs (ev : Event) (s : State) :
    (realPushed ev s).gs = s.gs := by simp [realPushed]
@[simp] theorem realPushed_idtr (ev : Event) (s : State) :
    (realPushed ev s).idtr = s.idtr := by simp [realPushed]
@[simp] theorem realPushed_gdtr (ev : Event) (s : State) :
    (realPushed ev s).gdtr = s.gdtr := by simp [realPushed]
@[simp] theorem realPushed_ldtr (ev : Event) (s : State) :
    (realPushed ev s).ldtr = s.ldtr := by simp [realPushed]
@[simp] theorem realPushed_tr (ev : Event) (s : State) :
    (realPushed ev s).tr = s.tr := by simp [realPushed]
@[simp] theorem realPushed_shutdown (ev : Event) (s : State) :
    (realPushed ev s).shutdown = s.shutdown := by simp [realPushed]

@[simp] theorem realTransfer_gpr (ev : Event) (s : State) :
    (realTransfer ev s).gpr = s.gpr := by simp [realTransfer, loadRealEntry]
@[simp] theorem realTransfer_eflags (ev : Event) (s : State) :
    (realTransfer ev s).eflags = Flags.afterRealEntry s.eflags := by simp [realTransfer, loadRealEntry]
@[simp] theorem realTransfer_pe (ev : Event) (s : State) :
    (realTransfer ev s).pe = s.pe := by simp [realTransfer, loadRealEntry]
@[simp] theorem realTransfer_cpl (ev : Event) (s : State) :
    (realTransfer ev s).cpl = s.cpl := by simp [realTransfer, loadRealEntry]
@[simp] theorem realTransfer_paging (ev : Event) (s : State) :
    (realTransfer ev s).paging = s.paging := by simp [realTransfer, loadRealEntry]
@[simp] theorem realTransfer_ss (ev : Event) (s : State) :
    (realTransfer ev s).ss = s.ss := by simp [realTransfer, loadRealEntry]
@[simp] theorem realTransfer_ds (ev : Event) (s : State) :
    (realTransfer ev s).ds = s.ds := by simp [realTransfer, loadRealEntry]
@[simp] theorem realTransfer_es (ev : Event) (s : State) :
    (realTransfer ev s).es = s.es := by simp [realTransfer, loadRealEntry]
@[simp] theorem realTransfer_fs (ev : Event) (s : State) :
    (realTransfer ev s).fs = s.fs := by simp [realTransfer, loadRealEntry]
@[simp] theorem realTransfer_gs (ev : Event) (s : State) :
    (realTransfer ev s).gs = s.gs := by simp [realTransfer, loadRealEntry]
@[simp] theorem realTransfer_idtr (ev : Event) (s : State) :
    (realTransfer ev s).idtr = s.idtr := by simp [realTransfer, loadRealEntry]
@[simp] theorem realTransfer_gdtr (ev : Event) (s : State) :
    (realTransfer ev s).gdtr = s.gdtr := by simp [realTransfer, loadRealEntry]
@[simp] theorem realTransfer_ldtr (ev : Event) (s : State) :
    (realTransfer ev s).ldtr = s.ldtr := by simp [realTransfer, loadRealEntry]
@[simp] theorem realTransfer_tr (ev : Event) (s : State) :
    (realTransfer ev s).tr = s.tr := by simp [realTransfer, loadRealEntry]
@[simp] theorem realTransfer_shutdown (ev : Event) (s : State) :
    (realTransfer ev s).shutdown = s.shutdown := by simp [realTransfer, loadRealEntry]

end Sys2Proof.Machine
end

