-- ==== Sys2Proof/Laws/TransferStack.lean ====
section
/-! SUPPORT. What the handler finds on its stack after each transfer, and which bytes the transfer stores. -/

namespace Sys2Proof.Machine

/-- `byteAt` as a whole depends on memory and the free bytes. -/
theorem OnlyStored.congr {s t u v : State} {lin : DWord} {n : Nat} (hs : ∀ a, u.byteAt a = s.byteAt a)
    (ht : ∀ a, v.byteAt a = t.byteAt a) (h : OnlyStored s t lin n) : OnlyStored u v lin n :=
  fun a ha => by rw [ht, h a ha, hs]

namespace Stacked

variable {s t u : State} {size : GateSize} {xs : List Slot} {r : Nat}

/-- An update of fields that the stack does not depend on. -/
theorem update (h : Stacked s t size xs r) (hp : u.pe = t.pe) (hf : u.eflags = t.eflags) (hs : u.ss = t.ss)
    (he : u.esp = t.esp) (hm : u.mem = t.mem) (hfr : u.free = t.free) : Stacked s u size xs r := by
  have hw := State.stackWide_congr hp hf hs
  have ho := State.stackOffset_congr hw he
  have hb := State.stackBase_congr hp hf hs
  have hl : u.stackLinear = t.stackLinear := by unfold State.stackLinear; rw [hb, ho]
  have hbyte := State.byteAt_congr hm hfr
  exact ⟨hp.trans h.pe, hf.trans h.eflags, hs.trans h.ss, h.fits, h.start,
    State.stackAt_congr hw ho h.stands, fun hn => by rw [he]; exact h.high hn,
    fun k x hk => slotHolds_congr' (by unfold State.slotLinear; rw [hl]) (fun a _ => hbyte a) (h.holds k x hk),
    by rw [hl]; exact OnlyStored.congr (fun _ => rfl) hbyte h.outside⟩

theorem withCode (h : Stacked s t size xs r) (g : SegReg) (e : DWord) :
    Stacked s (t.withCode g e) size xs r := h.update rfl rfl rfl rfl rfl rfl

theorem withPrivilege (h : Stacked s t size xs r) (k : BitVec 2) :
    Stacked s (t.withPrivilege k) size xs r := h.update rfl rfl rfl rfl rfl rfl

theorem withNullDataSegments (h : Stacked s t size xs r) :
    Stacked s t.withNullDataSegments size xs r := h.update rfl rfl rfl rfl rfl rfl

/-- A last update may change EFLAGS, where neither the stack's width nor its base changes. -/
theorem finish {wide : Bool} {esp : DWord} (h : Stacked s t size xs (roomTop wide esp + 1))
    (hwide : s.stackWide = wide) (hesp : s.esp = esp) (hw : u.stackWide = t.stackWide) (hb : u.stackBase = t.stackBase)
    (he : u.esp = t.esp) (hm : u.mem = t.mem) (hfr : u.free = t.free) :
    HandlerStack u size xs ∧ OnlyStored s u u.stackLinear (xs.length * size.bytes) ∧
      u.esp = lowered wide esp (xs.length * size.bytes) := by
  have ho := State.stackOffset_congr hw he
  have hl : u.stackLinear = t.stackLinear := by unfold State.stackLinear; rw [hb, ho]
  have hbyte := State.byteAt_congr hm hfr
  exact ⟨
    fun k x hk => slotHolds_congr' (by unfold State.slotLinear; rw [hl]) (fun a _ => hbyte a) (h.holds k x hk),
    by rw [hl]; exact OnlyStored.congr (fun _ => rfl) hbyte h.outside,
    State.esp_of_stackAt (hw.trans (h.stackWide.trans hwide)) h.fits (State.stackAt_congr hw ho h.stands)
      fun hf => by rw [he, h.high (hwide.trans hf), hesp]⟩

end Stacked

/-! ### Modes after an entry -/

theorem vmFlag_afterGateEntry {s u : State} {b : Bool} (h : u.eflags = Flags.afterGateEntry b s.eflags) :
    u.vmFlag = s.vmFlag := by
  unfold State.vmFlag
  rw [h, Flags.getLsbD_afterGateEntry]
  simp [Flags.vmBit, Flags.ifBit, Flags.tfBit, Flags.ntBit]

theorem mode_of_vmFlag {s u : State} (hp : u.pe = s.pe) (hv : u.vmFlag = s.vmFlag) : u.mode = s.mode := by
  unfold State.mode
  rw [hp, hv]

theorem mode_prot {s : State} (hp : s.pe = true) (hv : s.vmFlag = false) : s.mode = .prot := by
  simp [State.mode, hp, hv]

theorem mode_v86 {s : State} (hp : s.pe = true) (hv : s.vmFlag = true) : s.mode = .v86 := by
  simp [State.mode, hp, hv]

theorem mode_real {s : State} (hp : s.pe = false) : s.mode = .real := by
  simp [State.mode, hp]

theorem stackWide_of_mode {s u : State} (hm : u.mode = s.mode) (hs : u.ss = s.ss) :
    u.stackWide = s.stackWide := by
  unfold State.stackWide; rw [hm, hs]

theorem stackBase_of_mode {s u : State} (hm : u.mode = s.mode) (hs : u.ss = s.ss) :
    u.stackBase = s.stackBase := by
  unfold State.stackBase; rw [hm, hs]

theorem stackWide_prot {s : State} (hm : s.mode = .prot) : s.stackWide = s.ss.inv.big := by
  unfold State.stackWide; rw [hm]

/-! ### The same-level path -/

/-- Rule R116: the handler's stack after a same-level transfer, from the current stack with room. -/
theorem sameTransfer_stack (ev : Event) (t : Target) (s : State) (hp : s.pe = true) (hv : s.vmFlag = false)
    (hroom : RoomNotWrapping s.ss.inv.big s.esp (sameBytes t.size + errorBytes ev t.size)) :
    HandlerStack (sameTransfer ev t s) t.size
        (errorSlots ev ++ [.value ev.retOffset, .word ev.retSelector, .value s.eflags]) ∧
      OnlyStored s (sameTransfer ev t s) (sameTransfer ev t s).stackLinear
        (sameBytes t.size + errorBytes ev t.size) ∧
      (sameTransfer ev t s).esp = lowered s.ss.inv.big s.esp (sameBytes t.size + errorBytes ev t.size) := by
  have hmode := mode_prot hp hv
  have hat := s.stackAt_room
  rw [stackWide_prot hmode] at hat
  have hbytes : sameBytes t.size = 3 * t.size.bytes := by cases t.size <;> rfl
  unfold RoomNotWrapping at hroom
  have h1 := stacked_pushFlags t.size s.eflags hat (by omega)
  have h2 := h1.trans (stacked_pushPointer t.size ev.retSelector ev.retOffset h1.stands
    (by simp only [List.length_singleton, one_mul]; omega))
  have h3 := h2.withCode { selector := Selector.withRpl t.selector s.privilege, inv := t.code } t.offset
  have h4 := h3.trans (stacked_pushError ev t.size h3.stands (by
    simp only [List.length_append, List.length_cons, List.length_nil]; omega))
  have hm4 : (sameTransfer ev t s).mode = s.mode :=
    mode_of_vmFlag (by simp) (vmFlag_afterGateEntry (b := t.isInterrupt) (by simp))
  have hmp := State.mode_congr h4.pe h4.eflags
  have hfin := h4.finish (u := sameTransfer ev t s) (stackWide_prot hmode) rfl (stackWide_of_mode (hm4.trans hmp.symm) rfl)
    (stackBase_of_mode (hm4.trans hmp.symm) rfl) rfl rfl rfl
  have hlen : (errorSlots ev ++ ([Slot.value ev.retOffset, Slot.word ev.retSelector] ++ [Slot.value s.eflags])).length
      * t.size.bytes = sameBytes t.size + errorBytes ev t.size := by
    rw [List.length_append, Nat.add_mul, errorSlots_length, hbytes, Nat.add_comm]
    rfl
  rw [hlen] at hfin
  exact hfin

/-! ### The inner-privilege path -/

/-- Rule R112: the handler's stack after an inner-privilege transfer, on the new stack. -/
theorem innerTransfer_stack (ev : Event) (t : Target) (n : NewStack) (s : State) (hp : s.pe = true)
    (hv : s.vmFlag = false)
    (hroom : RoomNotWrapping n.inv.big n.pointer (innerBytes t.size + errorBytes ev t.size)) :
    HandlerStack (innerTransfer ev t n s) t.size
        (errorSlots ev ++ [.value ev.retOffset, .word ev.retSelector, .value s.eflags, .value s.esp,
          .word s.ss.selector]) ∧
      OnlyStored s (innerTransfer ev t n s) (innerTransfer ev t n s).stackLinear
        (innerBytes t.size + errorBytes ev t.size) ∧
      (innerTransfer ev t n s).esp
        = lowered n.inv.big n.pointer (innerBytes t.size + errorBytes ev t.size) := by
  let s1 : State := (s.withStack { selector := n.selector, inv := n.inv } n.pointer).withCode
    { selector := t.selector, inv := t.code } t.offset
  have hmode : s1.mode = .prot := mode_prot hp hv
  have hat := s1.stackAt_room
  rw [stackWide_prot hmode] at hat
  have hbytes : innerBytes t.size = 5 * t.size.bytes := by cases t.size <;> rfl
  unfold RoomNotWrapping at hroom
  change s1.StackAt (roomTop n.inv.big n.pointer + 1) at hat
  have h1 := stacked_pushPointer t.size s.ss.selector s.esp hat (by omega)
  have h2 := h1.trans (stacked_pushFlags t.size s.eflags h1.stands
    (by simp only [List.length_cons, List.length_nil]; omega))
  have h3 := h2.trans (stacked_pushPointer t.size ev.retSelector ev.retOffset h2.stands
    (by simp only [List.length_append, List.length_cons, List.length_nil]; omega))
  have h4 := h3.trans (stacked_pushError ev t.size h3.stands
    (by simp only [List.length_append, List.length_cons, List.length_nil]; omega))
  have hm4 : (innerTransfer ev t n s).mode = .prot :=
    mode_prot (by simp [hp]) ((vmFlag_afterGateEntry (s := s) (b := t.isInterrupt) (by simp)).trans hv)
  have hmp := (State.mode_congr h4.pe h4.eflags).trans hmode
  have hfin := h4.finish (u := innerTransfer ev t n s) (stackWide_prot hmode) rfl (stackWide_of_mode (hm4.trans hmp.symm) rfl)
    (stackBase_of_mode (hm4.trans hmp.symm) rfl) rfl rfl rfl
  have hlen : (errorSlots ev ++ ([Slot.value ev.retOffset, Slot.word ev.retSelector] ++ ([Slot.value s.eflags] ++
      [Slot.value s.esp, Slot.word s.ss.selector]))).length * t.size.bytes
        = innerBytes t.size + errorBytes ev t.size := by
    rw [List.length_append, Nat.add_mul, errorSlots_length, hbytes, Nat.add_comm]
    rfl
  rw [hlen] at hfin
  exact ⟨hfin.1, OnlyStored.congr (s := s1) (fun _ => rfl) (fun _ => rfl) hfin.2.1, hfin.2.2⟩

/-! ### The Virtual 8086 Mode path -/

theorem vmFlag_afterV86Entry {u : State} {f : DWord} {b : Bool} (h : u.eflags = Flags.afterV86Entry b f) :
    u.vmFlag = false := by
  unfold State.vmFlag
  rw [h, Flags.getLsbD_afterV86Entry]
  simp

/-- The four data segment selectors as the handler's stack holds them. -/
theorem stacked_pushDataSegments {s : State} {r : Nat} (h : s.StackAt r) (hr : 16 ≤ r) :
    Stacked s (pushDataSegments s) .bits32
      [.word s.es.selector, .word s.ds.selector, .word s.fs.selector, .word s.gs.selector] r := by
  have hb : GateSize.bits32.bytes = 4 := rfl
  have g1 := stacked_pushPadded s.gs.selector h (by omega)
  have g2 := g1.trans (stacked_pushPadded s.fs.selector g1.stands
    (by simp only [List.length_cons, List.length_nil, hb]; omega))
  have g3 := g2.trans (stacked_pushPadded s.ds.selector g2.stands
    (by simp only [List.length_append, List.length_cons, List.length_nil, hb]; omega))
  have g4 := g3.trans (stacked_pushPadded s.es.selector g3.stands
    (by simp only [List.length_append, List.length_cons, List.length_nil, hb]; omega))
  exact g4.withNullDataSegments

/-- Rule R114: the handler's stack after a transfer from Virtual 8086 Mode, on the level 0 stack. -/
theorem v86Transfer_stack (ev : Event) (t : Target) (n : NewStack) (s : State) (hp : s.pe = true)
    (hsize : t.size = .bits32)
    (hroom : RoomNotWrapping n.inv.big n.pointer (v86Bytes + errorBytes ev t.size)) :
    HandlerStack (v86Transfer ev t n s) .bits32
        (errorSlots ev ++ [.value ev.retOffset, .word ev.retSelector, .value s.eflags, .value s.esp,
          .word s.ss.selector, .word s.es.selector, .word s.ds.selector, .word s.fs.selector,
          .word s.gs.selector]) ∧
      OnlyStored s (v86Transfer ev t n s) (v86Transfer ev t n s).stackLinear
        (v86Bytes + errorBytes ev t.size) ∧
      (v86Transfer ev t n s).esp = lowered n.inv.big n.pointer (v86Bytes + errorBytes ev t.size) := by
  let s1 : State := (s.mapFlags (Flags.afterV86Entry t.isInterrupt)).withStack
    { selector := n.selector, inv := n.inv } n.pointer
  have hmode : s1.mode = .prot := mode_prot hp (vmFlag_afterV86Entry (b := t.isInterrupt) rfl)
  have hat := s1.stackAt_room
  rw [stackWide_prot hmode] at hat
  unfold RoomNotWrapping at hroom
  rw [hsize] at hroom ⊢
  unfold v86Bytes at hroom ⊢
  change s1.StackAt (roomTop n.inv.big n.pointer + 1) at hat
  have hb : GateSize.bits32.bytes = 4 := rfl
  have h0 := stacked_pushDataSegments hat (by omega)
  have h1 := h0.trans (stacked_pushPointer .bits32 s.ss.selector s.esp h0.stands
    (by simp only [List.length_cons, List.length_nil, hb]; omega))
  have h2 := h1.trans (stacked_pushFlags .bits32 s.eflags h1.stands
    (by simp only [List.length_append, List.length_cons, List.length_nil, hb]; omega))
  have h3 := h2.trans (stacked_pushPointer .bits32 ev.retSelector ev.retOffset h2.stands
    (by simp only [List.length_append, List.length_cons, List.length_nil, hb]; omega))
  have h4 := (h3.withCode { selector := t.selector, inv := t.code } t.offset).withPrivilege 0#2
  have h5 := h4.trans (stacked_pushError ev .bits32 h4.stands
    (by simp only [List.length_append, List.length_cons, List.length_nil, hb]; omega))
  have hlen : (errorSlots ev ++ ([Slot.value ev.retOffset, Slot.word ev.retSelector] ++
      ([Slot.value s.eflags] ++ ([Slot.value s.esp, Slot.word s.ss.selector] ++
        [Slot.word s1.es.selector, Slot.word s1.ds.selector, Slot.word s1.fs.selector,
          Slot.word s1.gs.selector])))).length * GateSize.bits32.bytes
        = 36 + errorBytes ev .bits32 := by
    rw [List.length_append, Nat.add_mul, errorSlots_length, Nat.add_comm]
    rfl
  have hu : v86Transfer ev t n s = pushError ev .bits32 (((pushPointer .bits32 ev.retSelector ev.retOffset
      (pushFlags .bits32 s.eflags (pushPointer .bits32 s.ss.selector s.esp (pushDataSegments s1)))).withCode
        { selector := t.selector, inv := t.code } t.offset).withPrivilege 0#2) := by
    unfold v86Transfer
    rw [hsize]
  rw [hu]
  have hfin := h5.finish (stackWide_prot hmode) rfl rfl rfl rfl rfl rfl
  rw [hlen] at hfin
  exact ⟨hfin.1, OnlyStored.congr (s := s1) (fun _ => rfl) (fun _ => rfl) hfin.2.1, hfin.2.2⟩

end Sys2Proof.Machine
end

