-- ==== Sys2Proof/Laws/RealStack.lean ====
section
/-! SUPPORT. The transfer of Real Address Mode: what stands on the stack, which bytes it stores, and what it
loads into CS:IP. -/

namespace Sys2Proof.Machine

theorem stackLinear_real {s : State} (h : s.pe = false) :
    s.stackLinear = realBase s.ss.selector + s.sp.setWidth 32 := by
  unfold State.stackLinear State.stackBase State.stackOffset State.stackWide
  simp [mode_real h]

theorem loweredEsp_real {s : State} (n : Nat) (h : s.pe = false) :
    s.loweredEsp n = s.esp.extractLsb' 16 16 ++ (s.sp - BitVec.ofNat 16 n) := by
  unfold State.loweredEsp State.stackWide
  simp [mode_real h]

theorem setWidth_append (a b : Word) : (a ++ b : DWord).setWidth 16 = b := by
  ext i hi
  simp only [BitVec.getElem_setWidth]
  rw [BitVec.getLsbD_append, if_pos hi, BitVec.getLsbD_eq_getElem hi]

theorem extractLsb_append (a b : Word) : (a ++ b : DWord).extractLsb' 16 16 = a := by
  ext i hi
  simp only [BitVec.getElem_extractLsb']
  rw [BitVec.getLsbD_append, if_neg (by omega), BitVec.getLsbD_eq_getElem (by omega)]
  congr 1
  omega

theorem push16_esp_real {s : State} (v : Word) (h : s.pe = false) :
    (s.push16 v).esp = s.esp.extractLsb' 16 16 ++ (s.sp - 2#16) := loweredEsp_real 2 h

theorem push16_sp_real {s : State} (v : Word) (h : s.pe = false) : (s.push16 v).sp = s.sp - 2#16 := by
  unfold State.sp
  rw [push16_esp_real v h, setWidth_append]
  rfl

/-- A push in Real Address Mode leaves ESP[31:16]. -/
theorem push16_high_real {s : State} (v : Word) (h : s.pe = false) :
    (s.push16 v).esp.extractLsb' 16 16 = s.esp.extractLsb' 16 16 := by
  rw [push16_esp_real v h, extractLsb_append]

/-- Two words of a real-mode stack whose offsets differ by 2 or 4 modulo 2^16 do not overlap. -/
theorem span_real_disjoint {sel a b : Word} {x : Nat} (h : b = a - 2#16 ∨ b = a - 4#16)
    (hx : x ∈ span (realBase sel + a.setWidth 32) 2) : x ∉ span (realBase sel + b.setWidth 32) 2 := by
  rw [State.not_mem_span]
  simp only [span, List.mem_map, List.mem_range] at hx
  obtain ⟨i, hi, rfl⟩ := hx
  intro k hk e
  have := BitVec.eq_of_toNat_eq e
  rw [BitVec.add_assoc, BitVec.add_assoc, BitVec.add_right_inj] at this
  have := congrArg BitVec.toNat this
  have ha := a.isLt
  simp only [BitVec.toNat_add, BitVec.toNat_ofNat, BitVec.toNat_setWidth] at this
  rcases h with rfl | rfl <;> simp only [BitVec.toNat_sub, BitVec.toNat_ofNat] at this <;> omega

/-- Where the stack top lies after a push in Real Address Mode. -/
theorem push16_linear_real {s : State} (v : Word) (h : s.pe = false) :
    (s.push16 v).stackLinear = realBase s.ss.selector + (s.sp - 2#16).setWidth 32 := by
  rw [stackLinear_real (by simpa using h), push16_sp_real v h]
  rfl

theorem word_sub_sub (a : Word) : a - 2#16 - 2#16 = a - 4#16 ∧ a - 4#16 - 2#16 = a - 6#16 := by
  constructor <;> apply BitVec.eq_of_toNat_eq <;>
    simp only [BitVec.toNat_sub, BitVec.toNat_ofNat] <;> omega

/-- Rule R103, the pushes: SP goes down by 6 modulo 2^16, the three words stand from SP upward, and no other byte
changes. -/
theorem realPushed_stack (ev : Event) (s : State) (h : s.pe = false) :
    (realPushed ev s).sp = s.sp - 6#16 ∧
      (realPushed ev s).esp.extractLsb' 16 16 = s.esp.extractLsb' 16 16 ∧
      (realPushed ev s).read16 ((realPushed ev s).realSlot 0) = ev.retOffset.setWidth 16 ∧
      (realPushed ev s).read16 ((realPushed ev s).realSlot 1) = ev.retSelector ∧
      (realPushed ev s).read16 ((realPushed ev s).realSlot 2) = s.flags16 ∧
      ∀ a, (∀ k < 3, a ∉ span ((realPushed ev s).realSlot k) 2) →
        (realPushed ev s).byteAt a = s.byteAt a := by
  obtain ⟨e4, e6⟩ := word_sub_sub s.sp
  -- the three stack states
  have p1 : (s.push16 s.flags16).pe = false := by simpa using h
  have sp1 := push16_sp_real s.flags16 h
  let s2 : State := (s.push16 s.flags16).mapFlags Flags.afterRealEntry
  have hs2 : s2.esp = (s.push16 s.flags16).esp := rfl
  have p2 : s2.pe = false := p1
  have sp2 : s2.sp = s.sp - 2#16 := sp1
  have ss2 : s2.ss = s.ss := by simp [s2]
  let s3 := s2.push16 ev.retSelector
  have hs3 : s3.esp = (s2.push16 ev.retSelector).esp := rfl
  have p3 : s3.pe = false := by simpa [s3] using p2
  have sp3 : s3.sp = s.sp - 4#16 := by rw [← e4, ← sp2]; exact push16_sp_real _ p2
  have ss3 : s3.ss = s.ss := by simp [s3, ss2]
  have hR : realPushed ev s = s3.push16 (ev.retOffset.setWidth 16) := rfl
  have spR : (realPushed ev s).sp = s.sp - 6#16 := by
    rw [hR, ← e6, ← sp3]; exact push16_sp_real _ p3
  have ssR : (realPushed ev s).ss = s.ss := realPushed_ss ev s
  -- the three linear addresses
  have l1 : (s.push16 s.flags16).stackLinear = realBase s.ss.selector + (s.sp - 2#16).setWidth 32 :=
    push16_linear_real _ h
  have l2 : s3.stackLinear = realBase s.ss.selector + (s.sp - 4#16).setWidth 32 := by
    rw [← e4, ← sp2, ← ss2]; exact push16_linear_real _ p2
  have l3 : (s3.push16 (ev.retOffset.setWidth 16)).stackLinear
      = realBase s.ss.selector + (s.sp - 6#16).setWidth 32 := by
    rw [← e6, ← sp3, ← ss3]; exact push16_linear_real _ p3
  have slot0 : (realPushed ev s).realSlot 0 = realBase s.ss.selector + (s.sp - 6#16).setWidth 32 := by
    unfold State.realSlot
    rw [spR, ssR]
    congr 2
    simp
  have slot1 : (realPushed ev s).realSlot 1 = realBase s.ss.selector + (s.sp - 4#16).setWidth 32 := by
    unfold State.realSlot
    rw [spR, ssR]
    congr 2
    apply BitVec.eq_of_toNat_eq
    simp only [BitVec.toNat_add, BitVec.toNat_sub, BitVec.toNat_ofNat]
    omega
  have slot2 : (realPushed ev s).realSlot 2 = realBase s.ss.selector + (s.sp - 2#16).setWidth 32 := by
    unfold State.realSlot
    rw [spR, ssR]
    congr 2
    apply BitVec.eq_of_toNat_eq
    simp only [BitVec.toNat_add, BitVec.toNat_sub, BitVec.toNat_ofNat]
    omega
  -- what each push leaves alone
  have o1 := State.onlyStored_push16 s s.flags16
  have o2 : OnlyStored s2 s3 s3.stackLinear 2 := State.onlyStored_push16 s2 ev.retSelector
  have o3 := State.onlyStored_push16 s3 (ev.retOffset.setWidth 16)
  rw [l1] at o1
  rw [l2] at o2
  rw [l3] at o3
  have b2 : ∀ a, s2.byteAt a = (s.push16 s.flags16).byteAt a := fun _ => rfl
  refine ⟨spR, ?_, ?_, ?_, ?_, ?_⟩
  · rw [hR, push16_high_real _ p3, hs3, push16_high_real _ p2, hs2, push16_high_real _ h]
  · rw [slot0, hR, ← l3]
    exact State.read16_push16 s3 _
  · rw [slot1, hR, State.read16_congr (s := s3), ← l2]
    · exact State.read16_push16 s2 _
    · intro a ha
      exact o3 a (span_real_disjoint (.inl e6.symm) ha)
  · rw [slot2, hR, State.read16_congr (s := s.push16 s.flags16), ← l1]
    · exact State.read16_push16 s _
    · intro a ha
      rw [o3 a (span_real_disjoint (a := s.sp - 2#16) (.inr (by rw [← e6, ← e4]; apply BitVec.eq_of_toNat_eq; simp only [BitVec.toNat_sub, BitVec.toNat_ofNat]; omega)) ha),
        o2 a (span_real_disjoint (.inl e4.symm) ha), b2]
  · intro a ha
    have a0 := ha 0 (by omega)
    have a1 := ha 1 (by omega)
    have a2 := ha 2 (by omega)
    rw [slot0] at a0
    rw [slot1] at a1
    rw [slot2] at a2
    rw [hR, o3 a a0, o2 a a1, b2, o1 a a2]

/-- Rule R103, the load: CS:IP come from the entry as memory stands after the pushes, and the invisible base of CS
becomes selector * 16. -/
theorem realTransfer_load (ev : Event) (s : State) :
    (realTransfer ev s).cs.selector = (realPushed ev s).read16 (s.realIdtLinear ev.vector + 2) ∧
      (realTransfer ev s).cs.inv = { s.cs.inv with base := realBase (realTransfer ev s).cs.selector } ∧
      (realTransfer ev s).eip = ((realPushed ev s).read16 (s.realIdtLinear ev.vector)).setWidth 32 := by
  have hi : (realPushed ev s).realIdtLinear ev.vector = s.realIdtLinear ev.vector := by
    unfold State.realIdtLinear; rw [realPushed_idtr]
  have hc : (realPushed ev s).cs = s.cs := realPushed_cs ev s
  unfold realTransfer loadRealEntry
  simp only [State.withCode_cs, State.withCode_eip]
  rw [hi, hc]
  exact ⟨rfl, rfl, rfl⟩

/-- The load of CS:IP stores nothing. -/
theorem realTransfer_byteAt (ev : Event) (s : State) (a : Nat) :
    (realTransfer ev s).byteAt a = (realPushed ev s).byteAt a := rfl

theorem realTransfer_read16 (ev : Event) (s : State) (lin : DWord) :
    (realTransfer ev s).read16 lin = (realPushed ev s).read16 lin := rfl

theorem realTransfer_realSlot (ev : Event) (s : State) (k : Nat) :
    (realTransfer ev s).realSlot k = (realPushed ev s).realSlot k := rfl

theorem realTransfer_esp (ev : Event) (s : State) : (realTransfer ev s).esp = (realPushed ev s).esp := rfl

end Sys2Proof.Machine
end

