-- ==== Sys2Proof/Laws/Legal.lean ====
section
/-! SUPPORT. What keeps a machine state legal: every memory operation keeps the canonical form, and every transfer
keeps the registers legal. -/

namespace Sys2Proof.Machine

/-- Memory, the free bytes and the pushed addresses are in canonical form. -/
structure MemLegal (s : State) : Prop where
  mem : Memory.wf s.mem
  free : s.FreeWf
  pushed : AddressesWf s.pushed

/-- The canonical form speaks of three fields alone. -/
theorem MemLegal.congr {s t : State} (h : MemLegal s) (hm : t.mem = s.mem) (hf : t.free = s.free)
    (hp : t.pushed = s.pushed) : MemLegal t := by
  refine ⟨hm ▸ h.mem, ?_, hp ▸ h.pushed⟩
  have := h.free
  unfold State.FreeWf at *
  rw [hm, hf]
  exact this

namespace MemLegal

variable {s : State}

theorem find_write_none {m : Memory} {a b : Nat} {v : Byte} (hb : b ≠ a) (h : assocFind b m = none) :
    assocFind b (m.write a v) = none := by
  unfold Memory.write
  split
  · rw [assocFind_erase, if_neg hb, h]
  · rw [assocFind_insert, if_neg hb, h]

theorem setByte (h : MemLegal s) {a : Nat} (ha : a < 2 ^ 32) (v : Byte) : MemLegal (s.setByte a v) where
  mem := Memory.write_wf h.mem ha
  free := by
    refine ⟨assocErase_wf h.free.1, fun c hc => ?_⟩
    obtain ⟨hc, hne⟩ := (mem_assocErase a s.free c).1 hc
    exact find_write_none hne (h.free.2 c hc)
  pushed := h.pushed

theorem setFree (h : MemLegal s) {a : Nat} (ha : a < 2 ^ 32) : MemLegal (s.setFree a) where
  mem := ⟨assocErase_wf h.mem.1, fun c hc => h.mem.2 c ((mem_assocErase a s.mem c).1 hc).1⟩
  free := by
    refine ⟨assocPlace_wf (assocErase_wf h.free.1) ha fun c hc => ((mem_assocErase a s.free c).1 hc).2,
      fun c hc => ?_⟩
    show assocFind c.1 (assocErase a s.mem) = none
    rw [assocFind_erase]
    rcases (mem_assocPlace a s.draws _ c).1 hc with rfl | hc
    · simp
    · obtain ⟨hc, hne⟩ := (mem_assocErase a s.free c).1 hc
      rw [if_neg hne, h.free.2 c hc]
  pushed := h.pushed

theorem store8 (h : MemLegal s) (lin : DWord) (v : Byte) : MemLegal (s.store8 lin v) :=
  { h.setByte lin.isLt v with pushed := insertAddress_wf h.pushed lin.isLt }

theorem storeFree8 (h : MemLegal s) (lin : DWord) : MemLegal (s.storeFree8 lin) :=
  { h.setFree lin.isLt with pushed := insertAddress_wf h.pushed lin.isLt }

theorem store16 (h : MemLegal s) (lin : DWord) (v : Word) : MemLegal (s.store16 lin v) :=
  (h.store8 lin _).store8 _ _

theorem store32 (h : MemLegal s) (lin : DWord) (v : DWord) : MemLegal (s.store32 lin v) :=
  (h.store16 lin _).store16 _ _

theorem storePadded (h : MemLegal s) (lin : DWord) (v : Word) : MemLegal (s.storePadded lin v) :=
  ((h.store16 lin v).storeFree8 _).storeFree8 _

theorem lowerStack (h : MemLegal s) (n : Nat) : MemLegal (s.lowerStack n) := h.congr rfl rfl rfl

theorem push16 (h : MemLegal s) (v : Word) : MemLegal (s.push16 v) := (h.lowerStack 2).store16 _ v

theorem push32 (h : MemLegal s) (v : DWord) : MemLegal (s.push32 v) := (h.lowerStack 4).store32 _ v

theorem pushPadded (h : MemLegal s) (v : Word) : MemLegal (s.pushPadded v) := (h.lowerStack 4).storePadded _ v

theorem pushFlags (h : MemLegal s) (z : GateSize) (v : DWord) : MemLegal (pushFlags z v s) := by
  cases z
  · exact h.push16 _
  · exact h.push32 _

theorem pushPointer (h : MemLegal s) (z : GateSize) (v : Word) (w : DWord) :
    MemLegal (pushPointer z v w s) := by
  cases z
  · exact (h.push16 _).push16 _
  · exact (h.pushPadded _).push32 _

theorem pushError (h : MemLegal s) (ev : Event) (z : GateSize) : MemLegal (pushError ev z s) := by
  unfold Machine.pushError
  split
  · exact h
  · exact h.push16 _
  · exact h.pushPadded _

theorem withStack (h : MemLegal s) (g : SegReg) (e : DWord) : MemLegal (s.withStack g e) := h.congr rfl rfl rfl

theorem withCode (h : MemLegal s) (g : SegReg) (e : DWord) : MemLegal (s.withCode g e) := h.congr rfl rfl rfl

theorem withPrivilege (h : MemLegal s) (k : BitVec 2) : MemLegal (s.withPrivilege k) := h.congr rfl rfl rfl

theorem mapFlags (h : MemLegal s) (f : DWord → DWord) : MemLegal (s.mapFlags f) := h.congr rfl rfl rfl

theorem withNullDataSegments (h : MemLegal s) : MemLegal s.withNullDataSegments := h.congr rfl rfl rfl

theorem pushDataSegments (h : MemLegal s) : MemLegal (pushDataSegments s) :=
  ((((h.pushPadded _).pushPadded _).pushPadded _).pushPadded _).withNullDataSegments

theorem realTransfer (h : MemLegal s) (ev : Event) : MemLegal (realTransfer ev s) :=
  ((((h.push16 s.flags16).mapFlags Flags.afterRealEntry).push16 ev.retSelector).push16
    (ev.retOffset.setWidth 16)).withCode _ _

theorem sameTransfer (h : MemLegal s) (ev : Event) (t : Target) : MemLegal (sameTransfer ev t s) :=
  ((((h.pushFlags t.size s.eflags).pushPointer t.size ev.retSelector ev.retOffset).withCode _ _).pushError ev
    t.size).mapFlags _

theorem innerTransfer (h : MemLegal s) (ev : Event) (t : Target) (n : NewStack) :
    MemLegal (innerTransfer ev t n s) :=
  (((((((h.withStack _ _).withCode _ _).pushPointer t.size s.ss.selector s.esp).pushFlags t.size
    s.eflags).pushPointer t.size ev.retSelector ev.retOffset).pushError ev t.size).withPrivilege _).mapFlags _

theorem v86Transfer (h : MemLegal s) (ev : Event) (t : Target) (n : NewStack) :
    MemLegal (v86Transfer ev t n s) :=
  ((((((((h.mapFlags _).withStack _ _).pushDataSegments).pushPointer .bits32 s.ss.selector s.esp).pushFlags
    .bits32 s.eflags).pushPointer .bits32 ev.retSelector ev.retOffset).withCode _ _).withPrivilege
      _).pushError ev t.size

end MemLegal

/-! ### Registers -/

theorem Selector.rpl_withRpl (sel : Word) (k : BitVec 2) : Selector.rpl (Selector.withRpl sel k) = k := by
  unfold Selector.rpl Selector.withRpl
  ext i hi
  simp only [BitVec.getElem_setWidth]
  rw [BitVec.getLsbD_append, if_pos hi, BitVec.getLsbD_eq_getElem hi]

theorem null_legal : ({ selector := 0#16, inv := none } : DataSegReg).Legal := by
  unfold DataSegReg.Legal Selector.IsNull
  simp

/-- A same-level transfer keeps the registers legal. -/
theorem sameTransfer_registersLegal {ev : Event} {t : Target} {s : State} (hp : s.pe = true)
    (hv : s.vmFlag = false) (h : s.RegistersLegal) : (sameTransfer ev t s).RegistersLegal := by
  have hm := mode_prot hp hv
  have hm' : (sameTransfer ev t s).mode = .prot :=
    mode_prot (by simp [hp]) ((vmFlag_afterGateEntry (s := s) (b := t.isInterrupt) (by simp)).trans hv)
  obtain ⟨_, hfix, hpriv, hdata⟩ := h
  refine ⟨by simp [State.IllegalMode, hp], ?_, ?_, ?_⟩
  · rw [sameTransfer_eflags]; exact Flags.fixedBits_afterGateEntry _ hfix
  · refine ⟨by simp [hm'], fun _ => ?_, by simp [hm']⟩
    rw [sameTransfer_cs, sameTransfer_cpl, Selector.rpl_withRpl]
    unfold State.privilege
    rw [hm]
  · simpa using hdata

/-- An inner-privilege transfer keeps the registers legal. -/
theorem innerTransfer_registersLegal {ev : Event} {t : Target} {n : NewStack} {s : State} (hp : s.pe = true)
    (hv : s.vmFlag = false) (h : s.RegistersLegal) : (innerTransfer ev t n s).RegistersLegal := by
  have hm' : (innerTransfer ev t n s).mode = .prot :=
    mode_prot (by simp [hp]) ((vmFlag_afterGateEntry (s := s) (b := t.isInterrupt) (by simp)).trans hv)
  obtain ⟨_, hfix, _, hdata⟩ := h
  refine ⟨by simp [State.IllegalMode, hp], ?_, ?_, ?_⟩
  · rw [innerTransfer_eflags]; exact Flags.fixedBits_afterGateEntry _ hfix
  · refine ⟨by simp [hm'], fun _ => ?_, by simp [hm']⟩
    rw [innerTransfer_cs, innerTransfer_cpl, Selector.rpl_withRpl]
  · simpa using hdata

/-- A transfer from Virtual 8086 Mode makes the registers legal for Protected Mode at level 0. -/
theorem v86Transfer_registersLegal {ev : Event} {t : Target} {n : NewStack} {s : State} (hp : s.pe = true)
    (h : s.RegistersLegal) : (v86Transfer ev t n s).RegistersLegal := by
  have hm' : (v86Transfer ev t n s).mode = .prot :=
    mode_prot (by simp [hp]) (vmFlag_afterV86Entry (f := s.eflags) (b := t.isInterrupt) (by simp))
  obtain ⟨_, hfix, _, _⟩ := h
  refine ⟨by simp [State.IllegalMode, hp], ?_, ?_, ?_⟩
  · rw [v86Transfer_eflags]; exact Flags.fixedBits_afterV86Entry _ hfix
  · refine ⟨by simp [hm'], fun _ => ?_, by simp [hm']⟩
    rw [v86Transfer_cs, v86Transfer_cpl, Selector.rpl_withRpl]
  · rw [v86Transfer_ds, v86Transfer_es, v86Transfer_fs, v86Transfer_gs]
    exact ⟨null_legal, null_legal, null_legal, null_legal⟩

/-- A real-mode transfer keeps the registers legal. -/
theorem realTransfer_registersLegal {ev : Event} {s : State} (hp : s.pe = false) (h : s.RegistersLegal) :
    (realTransfer ev s).RegistersLegal := by
  have hm := mode_real hp
  have hm' : (realTransfer ev s).mode = .real := mode_real (by simp [hp])
  obtain ⟨hill, hfix, hpriv, hdata⟩ := h
  refine ⟨fun hi => hill ⟨hp, ?_⟩, ?_, ?_, ?_⟩
  · have hvm := hi.2
    unfold State.vmFlag at hvm ⊢
    rw [realTransfer_eflags, Flags.getLsbD_afterRealEntry] at hvm
    simp [Flags.vmBit, Flags.ifBit, Flags.tfBit] at hvm
    exact hvm
  · rw [realTransfer_eflags]; exact Flags.fixedBits_afterRealEntry hfix
  · refine ⟨fun _ => ?_, by simp [hm'], by simp [hm']⟩
    rw [realTransfer_cpl]; exact hpriv.1 hm
  · simpa using hdata

/-- A shutdown leaves memory in canonical form, whatever else it leaves. -/
theorem enterShutdown_memLegal {s : State} (h : AddressesWf s.pushed) : MemLegal s.enterShutdown where
  mem := Memory.canonical_wf _
  free := ⟨⟨List.Pairwise.nil, by simp [State.enterShutdown]⟩, by simp [State.enterShutdown]⟩
  pushed := h

end Sys2Proof.Machine
end

