-- ==== Sys2Proof/Laws/PerInstr.lean ====
section
/-! SUPPORT. The statements made of every instruction: one lemma per constructor of `Instr`. -/

namespace Sys2Proof.Laws.EncodedLength

/-- The encoding of an instruction is as long as the instruction (rules R65, R69). -/
def Statement (i : Instr) : Prop := (encode i).length = i.length

theorem int3 : Statement .int3 := rfl

theorem intImm8 (imm8 : Nat) : Statement (.intImm8 imm8) := rfl

theorem into : Statement .into := rfl

end Sys2Proof.Laws.EncodedLength
end

