-- ==== Sys2Proof/Laws/Pushed.lean ====
section
/-! SUPPORT. What the list of pushed addresses remembers: every operation that stores puts the addresses it stored
to into it, and forgets none (rule R61); and what placing an instruction's bytes leaves alone. -/

namespace Sys2Proof.Machine

/-- From `s` to `t` every changed byte is remembered, and nothing is forgotten. -/
structure Remembers (s t : State) : Prop where
  changed : ∀ a, t.byteAt a ≠ s.byteAt a → a ∈ t.pushed
  kept : ∀ a ∈ s.pushed, a ∈ t.pushed

namespace Remembers

variable {s t u : State}

theorem refl (s : State) : Remembers s s := ⟨fun _ h => absurd rfl h, fun _ h => h⟩

theorem trans (h : Remembers s t) (k : Remembers t u) : Remembers s u where
  changed a x := by
    by_cases hx : u.byteAt a = t.byteAt a
    · exact k.kept _ (h.changed a (by rwa [hx] at x))
    · exact k.changed a hx
  kept a x := k.kept _ (h.kept _ x)

/-- An update of registers changes nothing that counts. -/
theorem update (h : Remembers s t) (hm : u.mem = t.mem) (hf : u.free = t.free) (hp : u.pushed = t.pushed) :
    Remembers s u where
  changed a x := by rw [hp]; exact h.changed a (by rwa [State.byteAt_congr hm hf] at x)
  kept a x := by rw [hp]; exact h.kept a x

theorem store8 (s : State) (lin : DWord) (v : Byte) : Remembers s (s.store8 lin v) where
  changed a x := by
    rw [State.byteAt_store8] at x
    refine (mem_insertAddress _ _ _).2 ?_
    by_cases h : a = lin.toNat
    · exact .inl h
    · rw [if_neg h] at x; exact absurd rfl x
  kept a x := (mem_insertAddress _ _ _).2 (.inr x)

theorem storeFree8 (s : State) (lin : DWord) : Remembers s (s.storeFree8 lin) where
  changed a x := by
    rw [State.byteAt_storeFree8] at x
    refine (mem_insertAddress _ _ _).2 ?_
    by_cases h : a = lin.toNat
    · exact .inl h
    · rw [if_neg h] at x; exact absurd rfl x
  kept a x := (mem_insertAddress _ _ _).2 (.inr x)

theorem store16 (s : State) (lin : DWord) (v : Word) : Remembers s (s.store16 lin v) :=
  (store8 s _ _).trans (store8 _ _ _)

theorem push16 (h : Remembers s t) (v : Word) : Remembers s (t.push16 v) :=
  (h.update (u := t.lowerStack 2) rfl rfl rfl).trans (store16 _ _ _)

theorem push32 (h : Remembers s t) (v : DWord) : Remembers s (t.push32 v) :=
  (h.update (u := t.lowerStack 4) rfl rfl rfl).trans ((store16 _ _ _).trans (store16 _ _ _))

theorem pushPadded (h : Remembers s t) (v : Word) : Remembers s (t.pushPadded v) :=
  (h.update (u := t.lowerStack 4) rfl rfl rfl).trans
    (((store16 _ _ _).trans (storeFree8 _ _)).trans (storeFree8 _ _))

theorem pushPointer (h : Remembers s t) (size : GateSize) (v : Word) (w : DWord) :
    Remembers s (pushPointer size v w t) := by
  cases size
  · exact (h.push16 _).push16 _
  · exact (h.pushPadded _).push32 _

theorem pushFlags (h : Remembers s t) (size : GateSize) (v : DWord) : Remembers s (pushFlags size v t) := by
  cases size
  · exact h.push16 _
  · exact h.push32 _

theorem pushError (h : Remembers s t) (ev : Event) (size : GateSize) : Remembers s (pushError ev size t) := by
  unfold Machine.pushError
  split
  · exact h
  · exact h.push16 _
  · exact h.pushPadded _

theorem mapFlags (h : Remembers s t) (f : DWord → DWord) : Remembers s (t.mapFlags f) := h.update rfl rfl rfl

theorem withStack (h : Remembers s t) (g : SegReg) (e : DWord) : Remembers s (t.withStack g e) :=
  h.update rfl rfl rfl

theorem withCode (h : Remembers s t) (g : SegReg) (e : DWord) : Remembers s (t.withCode g e) :=
  h.update rfl rfl rfl

theorem withPrivilege (h : Remembers s t) (k : BitVec 2) : Remembers s (t.withPrivilege k) :=
  h.update rfl rfl rfl

theorem withNullDataSegments (h : Remembers s t) : Remembers s t.withNullDataSegments := h.update rfl rfl rfl

theorem realTransfer (ev : Event) (s : State) : Remembers s (realTransfer ev s) :=
  (((((refl s).push16 _).mapFlags _).push16 _).push16 _).withCode _ _

theorem sameTransfer (ev : Event) (t : Target) (s : State) : Remembers s (sameTransfer ev t s) :=
  (((((refl s).pushFlags _ _).pushPointer _ _ _).withCode _ _).pushError _ _).mapFlags _

theorem innerTransfer (ev : Event) (t : Target) (n : NewStack) (s : State) :
    Remembers s (innerTransfer ev t n s) :=
  (((((((refl s).withStack _ _).withCode _ _).pushPointer _ _ _).pushFlags _ _).pushPointer _ _ _).pushError
    _ _).withPrivilege _ |>.mapFlags _

theorem v86Transfer (ev : Event) (t : Target) (n : NewStack) (s : State) : Remembers s (v86Transfer ev t n s) :=
  have h0 := ((refl s).mapFlags (Flags.afterV86Entry t.isInterrupt)).withStack
    { selector := n.selector, inv := n.inv } n.pointer
  have h1 := ((((h0.pushPadded s.gs.selector).pushPadded s.fs.selector).pushPadded s.ds.selector).pushPadded
    s.es.selector).withNullDataSegments
  (((((h1.pushPointer .bits32 s.ss.selector s.esp).pushFlags .bits32 s.eflags).pushPointer .bits32
    ev.retSelector ev.retOffset).withCode _ _).withPrivilege _).pushError _ _

end Remembers

end Sys2Proof.Machine
end

