-- ==== Sys2Proof/Tests/Slice0.lean ====
section
/-! SUPPORT. The model's own tests: the decoder on words of the spec's encodings, one step on the spec's test
vectors (95_test_vectors.md), and for every statement a state and operands that meet its hypotheses. -/

namespace Sys2Proof.Tests

open Sys2Proof.Machine

/-! ### Well-formedness and decoding (rules R65 to R74, vectors E1 to E9) -/

/-- Ill formed: an immediate above 255 (rule R70). -/
theorem test_wellFormed_refuses_256 : (Instr.intImm8 256).wellFormed = false := by decide

theorem test_wellFormed_accepts_255 : (Instr.intImm8 255).wellFormed = true := by decide

/-- `INT 3` = 11001100 (rule R68, vector E1). -/
theorem test_decode_int3 : decode [0b11001100#8] = .ok (.int3, []) := by rfl

/-- `INT imm8` = 11001101 iiiiiiii; the immediate is unsigned (vectors E3, E6). -/
theorem test_decode_intImm8 : decode [0b11001101#8, 0b11111111#8] = .ok (.intImm8 255, []) ∧
    decode [0b11001101#8, 0b11001100#8] = .ok (.intImm8 0xCC, []) := ⟨rfl, rfl⟩

/-- `INTO` = 11001110 (vector E8). -/
theorem test_decode_into : decode [0b11001110#8] = .ok (.into, []) := by rfl

/-- Vector E9: another opcode, and a prefixed form. -/
theorem test_decode_refuses : decode [0x90#8] = .error (.unknownOpcode 0x90#8) ∧
    decode [0x66#8, 0xCD#8, 0x21#8] = .error (.unknownOpcode 0x66#8) := ⟨rfl, rfl⟩

/-- `CD` without its immediate byte. -/
theorem test_decode_truncated : decode [0b11001101#8] = .error .truncated := by rfl

/-- The opcode-table numbering: the immediate is bits 15..8. -/
theorem test_decodeTableWord : decodeTableWord 8 0xCC = some .int3 ∧
    decodeTableWord 16 0x21CD = some (.intImm8 0x21) ∧ decodeTableWord 8 0xCD = some (.intImm8 0) ∧
    decodeTableWord 8 0xCE = some .into ∧ decodeTableWord 8 0x90 = none := by decide

/-! ### States -/

/-- The state a next outcome holds; the state after reset for any other. -/
def resultOf (o : Host.Outcome State Fault Refusal) : State :=
  match o with
  | .next t => t
  | _ => State.reset

/-- The outcome is a next state. -/
def isNext (o : Host.Outcome State Fault Refusal) : Bool :=
  match o with
  | .next _ => true
  | _ => false

theorem next_of_isNext {o : Host.Outcome State Fault Refusal} (h : isNext o = true) :
    o = .next (resultOf o) := by
  cases o <;> first | rfl | cases h

/-- The state of a raised exception, if a delivery raised one. -/
def raisedBy (d : Delivery) : Option (State × Exc × Word) :=
  match d with
  | .raised t e c => some (t, e, c)
  | _ => none

theorem raised_of_raisedBy {d : Delivery} (h : (raisedBy d).isSome = true) :
    ∃ t e c, d = .raised t e c := by
  cases d <;> first | exact ⟨_, _, _, rfl⟩ | cases h

/-- The common start of section 2.2 of the vectors: CS:IP = 1000:0100, SS = 5000, and the IDT entries 3, 4 and 21H
of vectors A1 to A3. -/
def real (flags : Word) (sp : Word) : State :=
  { State.reset with
    cs := { selector := 0x1000#16, inv := resetHidden 0x10000#32 }
    eip := 0x100#32
    ss := { selector := 0x5000#16, inv := resetHidden 0x50000#32 }
    esp := sp.setWidth 32
    eflags := flags.setWidth 32
    mem := [(0xD, 0x02#8), (0xF, 0x40#8), (0x13, 0x30#8), (0x84, 0x10#8), (0x87, 0x20#8)] }

/-- The tables of section 2.4: the TSS, the GDT. -/
def tables : Memory :=
  [(0x6006, 0x09#8), (0x6008, 0x10#8)] ++
  [(0x7008, 0xFF#8), (0x7009, 0xFF#8), (0x700D, 0x9B#8), (0x700E, 0xCF#8)] ++
  [(0x7010, 0xFF#8), (0x7011, 0xFF#8), (0x7015, 0x93#8), (0x7016, 0xCF#8)] ++
  [(0x7018, 0xFF#8), (0x7019, 0xFF#8), (0x701D, 0xFB#8), (0x701E, 0xCF#8)] ++
  [(0x7020, 0xFF#8), (0x7021, 0xFF#8), (0x7025, 0xF3#8), (0x7026, 0xCF#8)]

/-- IDT entries: 3 = I32/3 to 0008:00104000, 4 = T32/3 to 0008:00105000, 6 = 16-bit trap gate of DPL 3 to 0008:1234,
7 = task gate of DPL 3 to 0038, 8 = I32/3 to the code segment 0018, 9 = T32/0 to 0008:00102000, 13 = the GP
handler I32/0 to 0008:00106000. -/
def gates : Memory :=
  [(0x8019, 0x40#8), (0x801A, 0x08#8), (0x801D, 0xEE#8), (0x801E, 0x10#8)] ++
  [(0x8021, 0x50#8), (0x8022, 0x08#8), (0x8025, 0xEF#8), (0x8026, 0x10#8)] ++
  [(0x8030, 0x34#8), (0x8031, 0x12#8), (0x8032, 0x08#8), (0x8035, 0xE7#8), (0x8036, 0xFF#8), (0x8037, 0xFF#8)] ++
  [(0x803A, 0x38#8), (0x803D, 0xE5#8)] ++
  [(0x8042, 0x18#8), (0x8045, 0xEE#8)] ++
  [(0x8049, 0x20#8), (0x804A, 0x08#8), (0x804D, 0x8F#8), (0x804E, 0x10#8)] ++
  [(0x8069, 0x60#8), (0x806A, 0x08#8), (0x806D, 0x8E#8), (0x806E, 0x10#8)]

/-- A flat 32-bit segment with the given access-rights byte. -/
def flat (ar : Byte) : Hidden := { base := 0, limit := 0xFFFFFFFF#32, ar := ar, big := true }

/-- The common start of section 2.5 at CPL 3. -/
def prot3 : State :=
  { State.reset with
    pe := true
    cpl := 3#2
    cs := { selector := 0x1B#16, inv := flat 0xFB#8 }
    ss := { selector := 0x23#16, inv := flat 0xF3#8 }
    esp := 0xF000#32
    eip := 0x400000#32
    eflags := 0x202#32
    idtr := { base := 0x8000#32, limit := 0x6F#16 }
    gdtr := { base := 0x7000#32, limit := 0x27#16 }
    tr := { base := 0x6000#32, limit := 0x67#32, is386 := true }
    mem := tables ++ gates }

/-- The same tables without the task gate. -/
def noTask3 : State := { prot3 with mem := tables ++ gates.filter (fun c => c.1 ≠ 0x803D) }

/-- The common start of section 2.5 at CPL 0. -/
def prot0 : State :=
  { prot3 with
    cpl := 0#2
    cs := { selector := 0x08#16, inv := flat 0x9B#8 }
    ss := { selector := 0x10#16, inv := flat 0x93#8 }
    esp := 0x90000#32
    eip := 0x100000#32 }

/-- The common start of section 2.7, and of program 4. -/
def v86 (flags : DWord) : State :=
  { prot3 with
    eflags := flags
    cs := { selector := 0x1000#16, inv := resetHidden 0x10000#32 }
    eip := 0x100#32
    ss := { selector := 0x2000#16, inv := resetHidden 0x20000#32 }
    esp := 0xFFE#32
    ds := { selector := 0x1111#16, inv := some (resetHidden 0x11110#32) }
    es := { selector := 0x2222#16, inv := some (resetHidden 0x22220#32) }
    fs := { selector := 0x3333#16, inv := some (resetHidden 0x33330#32) }
    gs := { selector := 0x4444#16, inv := some (resetHidden 0x44440#32) } }

/-- One step on the instruction of an opcode-table word, from a state. -/
def run (s : State) (nbits w : Nat) : State := resultOf (step (s.withFetchWord nbits w))

/-! ### One step on the spec's vectors -/

/-- Vector A2: `INT 3` in Real Address Mode. -/
theorem test_int3_real :
    let t := run (real 0xA02#16 0x1000#16) 8 0xCC
    (t.sp, t.cs.selector, t.eip, t.eflags) = (0xFFA#16, 0x4000#16, 0x200#32, 0x802#32) ∧
      (t.read16 0x50FFE, t.read16 0x50FFC, t.read16 0x50FFA) = (0xA02#16, 0x1000#16, 0x101#16) := by decide

/-- Program 4: `INT 3` from Virtual 8086 Mode, IOPL 0. -/
theorem test_int3_v86 :
    let t := run (v86 0x20202#32) 8 0xCC
    (t.eflags, t.cpl, t.cs.selector, t.eip, t.ss.selector, t.esp) =
        (0x2#32, 0#2, 0x08#16, 0x104000#32, 0x10#16, 0x8FFDC#32) ∧
      (t.read16 0x8FFFC, t.read16 0x8FFF8, t.read16 0x8FFF4, t.read16 0x8FFF0, t.read16 0x8FFEC) =
        (0x4444#16, 0x3333#16, 0x1111#16, 0x2222#16, 0x2000#16) ∧
      (t.read32 0x8FFE8, t.read32 0x8FFE4, t.read16 0x8FFE0, t.read32 0x8FFDC) =
        (0xFFE#32, 0x20202#32, 0x1000#16, 0x101#32) ∧
      t.gs = { selector := 0#16, inv := none } := by decide

/-- Vector A19: the IDT entry is read after the pushes that overwrote it. -/
theorem test_intImm8_entry_read_after_pushes :
    let t := run { real 0xA02#16 0x88#16 with ss := { selector := 0#16, inv := resetHidden 0 } } 16 0x21CD
    (t.sp, t.cs.selector, t.eip) = (0x82#16, 0xA02#16, 0x1000#32) := by decide

/-- Vector P4 through vector 9: the gate's DPL 0 is below CPL 3, so #GP(9 * 8 + 2) is delivered at the inner level,
returning to the `INT` itself. -/
theorem test_intImm8_gate_privilege :
    let t := run prot3 16 0x09CD
    (t.ss.selector, t.esp, t.cs.selector, t.eip, t.cpl, t.eflags) =
        (0x10#16, 0x8FFE8#32, 0x08#16, 0x106000#32, 0#2, 0x2#32) ∧
      (t.read16 0x8FFE8, t.read32 0x8FFEC, t.read16 0x8FFF0, t.read32 0x8FFF4, t.read32 0x8FFF8,
        t.read16 0x8FFFC) = (0x4A#16, 0x400000#32, 0x1B#16, 0x202#32, 0xF000#32, 0x23#16) := by decide

/-- Vector A3: `INTO` with OF = 1. -/
theorem test_into_taken :
    let t := run (real 0xA02#16 0x1000#16) 8 0xCE
    (t.sp, t.cs.selector, t.eip, t.eflags, t.read16 0x50FFA) =
      (0xFFA#16, 0x3000#16, 0#32, 0x802#32, 0x101#16) := by decide

/-- Vectors A4 and A16: `INTO` with OF = 0, with SP = 1: the next instruction, and nothing else. -/
theorem test_into_not_taken :
    let s := (real 0x202#16 1#16).withFetchWord 8 0xCE
    resultOf (step s) = { s with eip := 0x101#32 } := by decide

/-- Vector A13: SP = 1 shuts the processor down. -/
theorem test_shutdown : (run (real 0xA02#16 1#16) 16 0x21CD).shutdown = true := by decide

/-- The first step after reset, with `INT 3` placed where the processor fetches: F000:FFF0 by rule R44. -/
theorem test_step_after_reset :
    isNext (step (State.reset.withFetchWord 8 0xCC)) = true ∧ State.reset.fetchLinear 0 = 0x000FFFF0#32 := by
  decide

/-! ### Witnesses: states and operands that meet the hypotheses of the statements -/

theorem witness_DecodeEncodeAgree : (Instr.intImm8 255).wellFormed = true := by decide

theorem witness_OtherOpcodesRefused :
    let s := real 2#16 0x1000#16
    s.shutdown = false ∧ s.paging = false ∧ ¬ s.IllegalMode ∧ s.trapFlag = false ∧ s.FetchInLimit 1 ∧
      s.read8 (s.codeBase + s.eip) = 0#8 := by decide

theorem witness_reset_legal : State.reset.Legal := by decide

theorem witness_StepKeepsInvariant : MachineInv (State.reset.withFetchWord 8 0xCC) ∧
    ∃ t, step (State.reset.withFetchWord 8 0xCC) = .next t :=
  ⟨show State.Legal _ by decide, _, next_of_isNext (by decide)⟩

theorem witness_OutsideEventsKeepInvariant : MachineInv prot3 ∧
    (∃ t, externalInterrupt 3#8 prot3 = .next t) ∧ ∃ t, foreignException 13#8 (some 0#16) 0x1B#16 0#32 prot3 = .next t :=
  ⟨show State.Legal _ by decide, ⟨_, next_of_isNext (by decide)⟩, ⟨_, next_of_isNext (by decide)⟩⟩

theorem witness_StepRunsDecodedInstruction :
    let s := (real 2#16 0x1000#16).withFetchWord 16 0x21CD
    s.shutdown = false ∧ s.paging = false ∧ ¬ s.IllegalMode ∧ s.trapFlag = false ∧
      decode [s.read8 (s.codeBase + s.eip), s.read8 (s.codeBase + (s.eip + 1#32))] = .ok (.intImm8 0x21, []) ∧
      s.FetchInLimit (Instr.intImm8 0x21).length ∧
      ∀ k < (Instr.intImm8 0x21).length, (s.codeBase + (s.eip + BitVec.ofNat 32 k)).toNat ∉ s.pushed :=
  ⟨rfl, rfl, by decide, by decide, rfl, by decide, by decide⟩

/-- A processor that nothing blocks. -/
abbrev Free (s : State) : Prop :=
  s.shutdown = false ∧ s.paging = false ∧ ¬ s.IllegalMode ∧ s.trapFlag = false

theorem witness_FetchStops_limit :
    let s := { real 2#16 0x1000#16 with eip := 0x10000#32 }
    Free s ∧ ¬ s.FetchInLimit 1 := by decide

theorem witness_FetchStops_second_byte :
    let s := { real 2#16 0x1000#16 with eip := 0xFFFF#32 }.withFetchWord 16 0x21CD
    Free s ∧ decode s.fetchBytes = .ok (.intImm8 0x21, []) ∧ ¬ s.FetchInLimit (Instr.intImm8 0x21).length :=
  ⟨by decide, rfl, by decide⟩

theorem witness_FetchStops_pushed :
    let s := { (real 2#16 0x1000#16).withFetchWord 8 0xCC with pushed := [0x10100] }
    Free s ∧ decode s.fetchBytes = .ok (.int3, [0#8]) ∧ s.FetchInLimit Instr.int3.length ∧
      ¬ s.FetchNotPushed Instr.int3.length :=
  ⟨by decide, rfl, by decide, by decide⟩

theorem witness_PlacedWordRuns : decodeTableWord 16 0x21CD = some (.intImm8 0x21) ∧
    Free State.reset ∧ State.reset.FetchInLimit (Instr.intImm8 0x21).length := by decide

theorem witness_ShutdownIsFinal : { State.reset with shutdown := true }.shutdown = true := rfl

theorem witness_RefusedStates_paging : { State.reset with paging := true }.shutdown = false ∧
    { State.reset with paging := true }.paging = true := ⟨rfl, rfl⟩

theorem witness_RefusedStates_illegal :
    let s := { State.reset with eflags := 0x20002#32 }
    s.shutdown = false ∧ s.paging = false ∧ s.pe = false ∧ s.vmFlag = true := by decide

theorem witness_RefusedStates_trap :
    let s := { prot3 with eflags := 0x102#32 }
    s.shutdown = false ∧ s.paging = false ∧ (s.pe = true ∨ s.vmFlag = false) ∧ s.trapFlag = true := by decide

theorem witness_RefusedStates_wrap :
    let s := { State.reset with eip := 0xFFFF#32 }
    s.shutdown = false ∧ s.paging = false ∧ (s.pe = true ∨ s.vmFlag = false) ∧ s.trapFlag = false ∧
      s.codeTop < s.eip.toNat + Instr.int3.length := by decide

/-- Every test state may run instructions of both lengths. -/
theorem runnable_states : ∀ s ∈ [State.reset, real 0xA02#16 0x1000#16, real 0x202#16 1#16, real 0xA02#16 1#16,
    real 0xA02#16 3#16, real 0xA02#16 5#16, prot3, noTask3, prot0, { prot0 with eflags := 0xA02#32 },
    { prot3 with eflags := 0xA02#32 }, v86 0x20202#32, v86 0x20A02#32, v86 0x23202#32],
    Runnable s 1 ∧ Runnable s 2 := by
  have h : ∀ s ∈ [State.reset, real 0xA02#16 0x1000#16, real 0x202#16 1#16, real 0xA02#16 1#16,
      real 0xA02#16 3#16, real 0xA02#16 5#16, prot3, noTask3, prot0, { prot0 with eflags := 0xA02#32 },
      { prot3 with eflags := 0xA02#32 }, v86 0x20202#32, v86 0x20A02#32, v86 0x23202#32],
      s.shutdown = false ∧ s.paging = false ∧ ¬ s.IllegalMode ∧ s.trapFlag = false ∧ s.NextFits 1 ∧ s.NextFits 2 := by
    decide
  intro s hs
  obtain ⟨h1, h2, h3, h4, h5, h6⟩ := h s hs
  exact ⟨⟨h1, h2, h3, h4, h5⟩, ⟨h1, h2, h3, h4, h6⟩⟩

theorem witness_IntThreeInterrupts : Runnable State.reset 1 := (runnable_states _ (by simp)).1

theorem witness_IntImmediateInterrupts : Runnable prot3 2 ∧ Runnable (v86 0x20202#32) 2 ∧
    (v86 0x20202#32).pe = true ∧ (v86 0x20202#32).vmFlag = true ∧ (v86 0x20202#32).iopl < 3 :=
  ⟨(runnable_states _ (by simp)).2, (runnable_states _ (by simp)).2, by decide, by decide, by decide⟩

theorem witness_IntoInterruptsOnOverflow :
    (Runnable (real 0xA02#16 0x1000#16) 1 ∧ (real 0xA02#16 0x1000#16).overflowFlag = true) ∧
      Runnable (real 0x202#16 1#16) 1 ∧ (real 0x202#16 1#16).overflowFlag = false :=
  ⟨⟨(runnable_states _ (by simp)).1, by decide⟩, (runnable_states _ (by simp)).1, by decide⟩

theorem witness_V86IoplCheck_refused : Runnable (v86 0x20202#32) 2 ∧ Runnable (v86 0x20202#32) 1 ∧
    (v86 0x20202#32).pe = true ∧ (v86 0x20202#32).vmFlag = true ∧ (v86 0x20202#32).iopl < 3 ∧
    (v86 0x20202#32).overflowFlag = false :=
  ⟨(runnable_states _ (by simp)).2, (runnable_states _ (by simp)).1, by decide, by decide, by decide, by decide⟩

theorem witness_V86IoplCheck_allowed : Runnable (v86 0x23202#32) 2 ∧ (v86 0x23202#32).vmFlag = true ∧
    (v86 0x23202#32).iopl = 3 :=
  ⟨(runnable_states _ (by simp)).2, by decide, by decide⟩

theorem witness_V86IoplCheck_overflow : Runnable (v86 0x20A02#32) 1 ∧ (v86 0x20A02#32).vmFlag = true ∧
    (v86 0x20A02#32).overflowFlag = true :=
  ⟨(runnable_states _ (by simp)).1, by decide, by decide⟩

theorem witness_V86IoplCheck_outside : Runnable prot3 2 ∧ prot3.vmFlag = false :=
  ⟨(runnable_states _ (by simp)).2, by decide⟩

theorem witness_ModeDispatch : (State.reset.paging = false ∧ ¬ State.reset.IllegalMode ∧ State.reset.pe = false) ∧
    prot3.paging = false ∧ ¬ prot3.IllegalMode ∧ prot3.pe = true := by decide

theorem realReady (n : Byte) (h : n.toNat * 4 + 3 ≤ 0x3FF) : RealReady (real 0xA02#16 0x1000#16) n where
  mode := by decide
  narrow := by decide
  stack := by decide
  inIdt := h

/-- The highest vector is within the limit (vector A6). -/
theorem witness_RealModeDelivery : RealReady (real 0xA02#16 0x1000#16) 255#8 ∧
    (real 0xA02#16 1#16).paging = false ∧ (real 0xA02#16 1#16).vmFlag = false ∧ (real 0xA02#16 1#16).pe = false ∧
    (real 0xA02#16 1#16).ss.inv.big = false ∧ (real 0xA02#16 1#16).sp = 1#16 :=
  ⟨realReady _ (by decide), by decide⟩

theorem witness_RealModeInterruptsComplete :
    ∀ i ∈ [Instr.int3, .intImm8 0x21, .into], Runnable (real 0xA02#16 0x1000#16) i.length ∧
      ∃ n, interruptOf (real 0xA02#16 0x1000#16) i = some n ∧ RealReady (real 0xA02#16 0x1000#16) n := by
  have hr := runnable_states (real 0xA02#16 0x1000#16) (by simp)
  intro i hi
  simp only [List.mem_cons, List.not_mem_nil, or_false] at hi
  rcases hi with rfl | rfl | rfl
  · exact ⟨hr.1, _, rfl, realReady _ (by decide)⟩
  · exact ⟨hr.2, 0x21#8, by decide, realReady _ (by decide)⟩
  · exact ⟨hr.1, 4#8, by decide, realReady _ (by decide)⟩

theorem witness_RealModeShutdown :
    ∀ sp ∈ [1#16, 3#16, 5#16], Runnable (real 0xA02#16 sp) Instr.int3.length ∧
      interruptOf (real 0xA02#16 sp) .int3 = some 3#8 ∧ (real 0xA02#16 sp).pe = false ∧
      (real 0xA02#16 sp).ss.inv.big = false ∧
      ((real 0xA02#16 sp).sp = 1#16 ∨ (real 0xA02#16 sp).sp = 3#16 ∨ (real 0xA02#16 sp).sp = 5#16) ∧
      ∃ t, deliver (bySoftware 3#8 1 (real 0xA02#16 sp)) (real 0xA02#16 sp) = .shutDown t := by
  intro sp hsp
  simp only [List.mem_cons, List.not_mem_nil, or_false] at hsp
  rcases hsp with rfl | rfl | rfl
  · exact ⟨(runnable_states _ (by simp)).1, rfl, rfl, rfl, by decide, _, rfl⟩
  · exact ⟨(runnable_states _ (by simp)).1, rfl, rfl, rfl, by decide, _, rfl⟩
  · exact ⟨(runnable_states _ (by simp)).1, rfl, rfl, rfl, by decide, _, rfl⟩

theorem witness_RealModeRaisesNothing_wide :
    let s := { State.reset with ss := { selector := 0#16, inv := flat 0x93#8 } }
    s.paging = false ∧ s.vmFlag = false ∧ s.pe = false ∧ s.ss.inv.big = true := by decide

/-- Vector A7. -/
theorem witness_RealModeRaisesNothing_limit :
    let s := { real 0xA02#16 0x1000#16 with idtr := { base := 0#32, limit := 0x3FE#16 } }
    s.paging = false ∧ s.vmFlag = false ∧ s.pe = false ∧ s.ss.inv.big = false ∧ s.sp ≠ 1#16 ∧ s.sp ≠ 3#16 ∧
      s.sp ≠ 5#16 ∧ s.idtr.limit.toNat < (255#8 : Byte).toNat * 4 + 3 := by decide

theorem witness_GateChecksInOrder : prot3.paging = false ∧ prot3.pe = true := by decide

/-! Gates, code segments and paths -/

theorem gateOpen3 : GateOpen (bySoftware 4#8 1 prot3) prot3 (GateKind.through .bits32 false) := by
  constructor <;> decide

theorem codeOpen3 : CodeOpen prot3 (gateTarget prot3 4#8 .bits32 false) := by constructor <;> decide

theorem witness_CodeSegmentChecksInOrder :
    GateOpen (bySoftware 4#8 1 prot3) prot3 (GateKind.through .bits32 false) := gateOpen3

/-- A non-conforming segment of DPL 3 from CPL 0 (vector B16). -/
theorem witness_PathStops_above :
    GateOpen (bySoftware 8#8 2 prot0) prot0 (GateKind.through .bits32 true) ∧
      CodeOpen prot0 (gateTarget prot0 8#8 .bits32 true) ∧
      Ar.isConforming (gateTarget prot0 8#8 .bits32 true).code.ar = false ∧
      prot0.privilege < Ar.dpl (gateTarget prot0 8#8 .bits32 true).code.ar :=
  ⟨by constructor <;> decide, by constructor <;> decide, by decide, by decide⟩

/-- The same with a conforming segment (vector B17). -/
def conforming0 : State :=
  { prot0 with mem := (tables ++ gates).map (fun c => if c.1 = 0x701D then (c.1, 0xFF#8) else c) }

theorem witness_PathStops_conforming :
    GateOpen (bySoftware 8#8 2 conforming0) conforming0 (GateKind.through .bits32 true) ∧
      CodeOpen conforming0 (gateTarget conforming0 8#8 .bits32 true) ∧
      Ar.isConforming (gateTarget conforming0 8#8 .bits32 true).code.ar = true ∧
      conforming0.privilege < Ar.dpl (gateTarget conforming0 8#8 .bits32 true).code.ar :=
  ⟨by constructor <;> decide, by constructor <;> decide, by decide, by decide⟩

/-- A 16-bit gate from Virtual 8086 Mode (vector W8). -/
theorem witness_PathStops_v86 :
    GateOpen (bySoftware 6#8 2 (v86 0x23202#32)) (v86 0x23202#32) (GateKind.through .bits16 false) ∧
      CodeOpen (v86 0x23202#32) (gateTarget (v86 0x23202#32) 6#8 .bits16 false) ∧
      (v86 0x23202#32).vmFlag = true :=
  ⟨by constructor <;> decide, by constructor <;> decide, by decide⟩

theorem witness_NewStackChecksInOrder :
    GateOpen (bySoftware 4#8 1 prot3) prot3 (GateKind.through .bits32 false) ∧
      CodeOpen prot3 (gateTarget prot3 4#8 .bits32 false) ∧ prot3.vmFlag = false ∧
      Ar.isConforming (gateTarget prot3 4#8 .bits32 false).code.ar = false ∧
      Ar.dpl (gateTarget prot3 4#8 .bits32 false).code.ar < prot3.privilege ∧
      prot3.tssStackEnd (Ar.dpl (gateTarget prot3 4#8 .bits32 false).code.ar).toNat ≤ prot3.tr.limit.toNat :=
  ⟨gateOpen3, codeOpen3, by decide, by decide, by decide, by decide⟩

/-- The first limit that leaves out the level 0 pair of a 386 TSS: its last byte is byte 9 (rule R53). -/
theorem witness_NewStackChecksInOrder_limit :
    let s := { prot3 with tr := { base := 0x6000#32, limit := 8#32, is386 := true } }
    GateOpen (bySoftware 4#8 1 s) s (GateKind.through .bits32 false) ∧
      CodeOpen s (gateTarget s 4#8 .bits32 false) ∧ s.vmFlag = false ∧
      Ar.isConforming (gateTarget s 4#8 .bits32 false).code.ar = false ∧
      Ar.dpl (gateTarget s 4#8 .bits32 false).code.ar < s.privilege ∧
      s.tr.limit.toNat < s.tssStackEnd (Ar.dpl (gateTarget s 4#8 .bits32 false).code.ar).toNat :=
  ⟨by constructor <;> decide, by constructor <;> decide, by decide, by decide, by decide, by decide⟩

theorem witness_V86StackChecksInOrder :
    GateOpen (bySoftware 3#8 1 (v86 0x20202#32)) (v86 0x20202#32) (GateKind.through .bits32 true) ∧
      CodeOpen (v86 0x20202#32) (gateTarget (v86 0x20202#32) 3#8 .bits32 true) ∧
      (v86 0x20202#32).vmFlag = true ∧ (v86 0x20202#32).nestedTaskFlag = false ∧
      Ar.isConforming (gateTarget (v86 0x20202#32) 3#8 .bits32 true).code.ar = false ∧
      Ar.dpl (gateTarget (v86 0x20202#32) 3#8 .bits32 true).code.ar = 0#2 ∧
      (v86 0x20202#32).tssStackEnd 0 ≤ (v86 0x20202#32).tr.limit.toNat :=
  ⟨by constructor <;> decide, by constructor <;> decide, by decide, by decide, by decide, by decide, by decide⟩

theorem witness_V86StackChecksInOrder_nested :
    GateOpen (bySoftware 3#8 1 (v86 0x24202#32)) (v86 0x24202#32) (GateKind.through .bits32 true) ∧
      CodeOpen (v86 0x24202#32) (gateTarget (v86 0x24202#32) 3#8 .bits32 true) ∧
      (v86 0x24202#32).vmFlag = true ∧ (v86 0x24202#32).nestedTaskFlag = true ∧
      Ar.isConforming (gateTarget (v86 0x24202#32) 3#8 .bits32 true).code.ar = false ∧
      Ar.dpl (gateTarget (v86 0x24202#32) 3#8 .bits32 true).code.ar = 0#2 :=
  ⟨by constructor <;> decide, by constructor <;> decide, by decide, by decide, by decide, by decide⟩

theorem witness_V86StackChecksInOrder_limit :
    let s := { v86 0x20202#32 with tr := { base := 0x6000#32, limit := 8#32, is386 := true } }
    GateOpen (bySoftware 3#8 1 s) s (GateKind.through .bits32 true) ∧
      CodeOpen s (gateTarget s 3#8 .bits32 true) ∧ s.vmFlag = true ∧ s.nestedTaskFlag = false ∧
      Ar.isConforming (gateTarget s 3#8 .bits32 true).code.ar = false ∧
      Ar.dpl (gateTarget s 3#8 .bits32 true).code.ar = 0#2 ∧ s.tr.limit.toNat < s.tssStackEnd 0 :=
  ⟨by constructor <;> decide, by constructor <;> decide, by decide, by decide, by decide, by decide, by decide⟩

/-- A conforming level 0 segment from CPL 3 (vector P3). -/
def conforming3 : State :=
  { prot3 with mem := (tables ++ gates).map (fun c => if c.1 = 0x700D then (c.1, 0x9F#8) else c) }

theorem samePath_conforming : SamePath (bySoftware 4#8 2 conforming3) conforming3 .bits32 false where
  gate := by constructor <;> decide
  code := by constructor <;> decide
  notV86 := by decide
  level := by decide
  chosen := by decide
  ready := by constructor <;> decide

theorem witness_SameLevelChecksInOrder_conforming :
    GateOpen (bySoftware 4#8 2 conforming3) conforming3 (GateKind.through .bits32 false) ∧
      CodeOpen conforming3 (gateTarget conforming3 4#8 .bits32 false) ∧ conforming3.vmFlag = false ∧
      Ar.dpl (gateTarget conforming3 4#8 .bits32 false).code.ar ≤ conforming3.privilege ∧
      Ar.isConforming (gateTarget conforming3 4#8 .bits32 false).code.ar = true :=
  ⟨samePath_conforming.gate, samePath_conforming.code, by decide, samePath_conforming.level, by decide⟩

/-- Vector P1: a 16-bit trap gate at CPL 0. -/
theorem samePath16 : SamePath (bySoftware 6#8 2 prot0) prot0 .bits16 false where
  gate := by constructor <;> decide
  code := by constructor <;> decide
  notV86 := by decide
  level := by decide
  chosen := by decide
  ready := by constructor <;> decide

theorem witness_SameLevelChecksInOrder_equal :
    GateOpen (bySoftware 6#8 2 prot0) prot0 (GateKind.through .bits16 false) ∧
      CodeOpen prot0 (gateTarget prot0 6#8 .bits16 false) ∧ prot0.vmFlag = false ∧
      Ar.dpl (gateTarget prot0 6#8 .bits16 false).code.ar ≤ prot0.privilege ∧
      Ar.dpl (gateTarget prot0 6#8 .bits16 false).code.ar = prot0.privilege :=
  ⟨samePath16.gate, samePath16.code, by decide, samePath16.level, by decide⟩

theorem witness_SameLevelEntry : SamePath (bySoftware 6#8 2 prot0) prot0 .bits16 false ∧
    SamePath (bySoftware 4#8 2 conforming3) conforming3 .bits32 false := ⟨samePath16, samePath_conforming⟩

theorem witness_TaskGateInOrder : GateOpen (bySoftware 7#8 2 prot3) prot3 .taskGate := by
  constructor <;> decide

/-- The level 0 stack of the tables: 0010:00090000. -/
def stack0 : NewStack := { selector := 0x10#16, pointer := 0x90000#32, inv := flat 0x93#8 }

/-- Program 3, through vector 4. -/
theorem innerPath3 : InnerPath (bySoftware 4#8 2 prot3) prot3 .bits32 false stack0 where
  gate := by constructor <;> decide
  code := by constructor <;> decide
  notV86 := by decide
  nonConforming := by decide
  level := by decide
  ready := by constructor <;> decide

/-- Vector P2 with a trap gate: a 16-bit gate to the inner level. -/
theorem innerPath16 : InnerPath (bySoftware 6#8 2 prot3) prot3 .bits16 false stack0 where
  gate := by constructor <;> decide
  code := by constructor <;> decide
  notV86 := by decide
  nonConforming := by decide
  level := by decide
  ready := by constructor <;> decide

theorem witness_InnerLevelEntry : InnerPath (bySoftware 4#8 2 prot3) prot3 .bits32 false stack0 ∧
    InnerPath (bySoftware 6#8 2 prot3) prot3 .bits16 false stack0 := ⟨innerPath3, innerPath16⟩

theorem v86Path3 (flags : DWord) (h : flags ∈ [0x20202#32, 0x23202#32]) :
    V86Path (bySoftware 3#8 1 (v86 flags)) (v86 flags) true stack0 := by
  simp only [List.mem_cons, List.not_mem_nil, or_false] at h
  rcases h with rfl | rfl
  all_goals
    refine ⟨?_, ?_, ?_, ?_, ?_, ?_, ?_⟩ <;> first | decide | (constructor <;> decide)

theorem witness_V86ModeEntry : V86Path (bySoftware 3#8 1 (v86 0x20202#32)) (v86 0x20202#32) true stack0 :=
  v86Path3 _ (by simp)

/-! Completion: a state for each of the three instructions on each path. -/

/-- All three instructions meet the hypotheses at the same level, from CPL 0. -/
theorem witness_SameLevelInterruptsComplete :
    let s := { prot0 with eflags := 0xA02#32 }
    (Runnable s 1 ∧ interruptOf s .int3 = some 3#8 ∧ SamePath (bySoftware 3#8 1 s) s .bits32 true) ∧
      (Runnable s 2 ∧ interruptOf s (.intImm8 6) = some 6#8 ∧ SamePath (bySoftware 6#8 2 s) s .bits16 false) ∧
      (Runnable s 1 ∧ interruptOf s .into = some 4#8 ∧ SamePath (bySoftware 4#8 1 s) s .bits32 false) := by
  have hr := runnable_states { prot0 with eflags := 0xA02#32 } (by simp)
  refine ⟨⟨hr.1, rfl, ?_⟩, ⟨hr.2, by decide, ?_⟩, ⟨hr.1, by decide, ?_⟩⟩
  all_goals
    refine ⟨?_, ?_, ?_, ?_, ?_, ?_⟩ <;> first | decide | (constructor <;> decide)

/-- All three instructions meet the hypotheses from CPL 3 to level 0. -/
theorem witness_InnerLevelInterruptsComplete :
    let s := { prot3 with eflags := 0xA02#32 }
    (Runnable s 1 ∧ interruptOf s .int3 = some 3#8 ∧ InnerPath (bySoftware 3#8 1 s) s .bits32 true stack0) ∧
      (Runnable s 2 ∧ interruptOf s (.intImm8 6) = some 6#8 ∧
        InnerPath (bySoftware 6#8 2 s) s .bits16 false stack0) ∧
      (Runnable s 1 ∧ interruptOf s .into = some 4#8 ∧ InnerPath (bySoftware 4#8 1 s) s .bits32 false stack0) := by
  have hr := runnable_states { prot3 with eflags := 0xA02#32 } (by simp)
  refine ⟨⟨hr.1, rfl, ?_⟩, ⟨hr.2, by decide, ?_⟩, ⟨hr.1, by decide, ?_⟩⟩
  all_goals
    refine ⟨?_, ?_, ?_, ?_, ?_, ?_⟩ <;> first | decide | (constructor <;> decide)

/-- `INT 3` with IOPL 0, `INT imm8` with IOPL 3, `INTO` with IOPL 0, from Virtual 8086 Mode (vectors W1, W4, W5). -/
theorem witness_V86ModeInterruptsComplete :
    (Runnable (v86 0x20202#32) 1 ∧ interruptOf (v86 0x20202#32) .int3 = some 3#8 ∧
      V86Path (bySoftware 3#8 1 (v86 0x20202#32)) (v86 0x20202#32) true stack0) ∧
    (Runnable (v86 0x23202#32) 2 ∧ interruptOf (v86 0x23202#32) (.intImm8 3) = some 3#8 ∧
      V86Path (bySoftware 3#8 2 (v86 0x23202#32)) (v86 0x23202#32) true stack0) ∧
    (Runnable (v86 0x20A02#32) 1 ∧ interruptOf (v86 0x20A02#32) .into = some 4#8 ∧
      V86Path (bySoftware 4#8 1 (v86 0x20A02#32)) (v86 0x20A02#32) false stack0) := by
  refine ⟨⟨(runnable_states _ (by simp)).1, rfl, ?_⟩, ⟨(runnable_states _ (by simp)).2, by decide, ?_⟩,
    ⟨(runnable_states _ (by simp)).1, by decide, ?_⟩⟩
  all_goals
    refine ⟨?_, ?_, ?_, ?_, ?_, ?_, ?_⟩ <;> first | decide | (constructor <;> decide)

/-- Variant 4b (vector W3): the handler of vector 13 and 40 bytes of room. -/
theorem witness_V86EmulationTrapEnters : Runnable (v86 0x20202#32) 2 ∧ (v86 0x20202#32).pe = true ∧
    (v86 0x20202#32).vmFlag = true ∧ (v86 0x20202#32).iopl < 3 ∧
    V86Path (byException .gp 0#16 (v86 0x20202#32)) (v86 0x20202#32) true stack0 := by
  refine ⟨(runnable_states _ (by simp)).2, by decide, by decide, by decide, ?_⟩
  refine ⟨?_, ?_, ?_, ?_, ?_, ?_, ?_⟩ <;> first | decide | (constructor <;> decide)

/-! Raises and frames -/

/-- A software interrupt that raises (vector B5), and an exception that raises: a gate of vector 10 that is no gate. -/
theorem witness_RaisedExceptionIsDelivered :
    (∃ t e c, deliver (bySoftware 9#8 2 prot3) prot3 = .raised t e c) ∧
      (bySoftware 9#8 2 prot3).nested = false ∧
      (∃ t e c, deliver (byException .ts 0#16 prot3) prot3 = .raised t e c) ∧
      (byException .ts 0#16 prot3).nested = true :=
  ⟨raised_of_raisedBy (by decide), rfl, raised_of_raisedBy (by decide), rfl⟩

theorem witness_RaiseChangesNothing :
    (∃ t e c, deliver (bySoftware 9#8 2 prot3) prot3 = .raised t e c) ∧
      gateKind (descriptorAr (prot3.idtEntry 9#8)) ≠ some .taskGate :=
  ⟨raised_of_raisedBy (by decide), by decide⟩

theorem witness_RaisesAreInTheTable : ∃ t e c, deliver (bySoftware 9#8 2 prot3) prot3 = .raised t e c :=
  raised_of_raisedBy (by decide)

/-- `NoTaskGates` asks something of PE = 1 only. -/
theorem noTaskGates_real (flags sp : Word) : NoTaskGates (real flags sp) := fun h => by cases h

/-- Tables without a task gate. -/
theorem noTaskGates_noTask3 : NoTaskGates noTask3 := by
  intro _ v hv
  have h : ∀ n : Fin 14, gateKind (descriptorAr (noTask3.idtEntry (BitVec.ofNat 8 n.val))) ≠ some .taskGate := by
    decide
  have hn : v.toNat < 14 := by
    have : v.toNat * 8 + 7 ≤ 0x6F := hv
    omega
  have := h ⟨v.toNat, hn⟩
  simpa using this

/-- A run of `INT 3` at CPL 3 that goes on, in a state without task gates. -/
theorem witness_InstructionFrame : NoTaskGates noTask3 ∧
    (∃ t, exec .int3 noTask3 = .next t ∧ t.shutdown = false) :=
  ⟨noTaskGates_noTask3, _, next_of_isNext (by decide), by decide⟩

/-- Where no handler is entered: `INTO` with OF = 0. -/
theorem witness_InstructionFrame_none :
    NoTaskGates (real 0x202#16 1#16) ∧ enteredEvent .into (real 0x202#16 1#16) = none ∧
      ∃ t, exec .into (real 0x202#16 1#16) = .next t ∧ t.shutdown = false :=
  ⟨noTaskGates_real _ _, rfl, _, next_of_isNext (by decide), by decide⟩

/-- Where the instruction's own handler is entered from CPL 3: five doublewords. -/
theorem witness_InstructionFrame_own :
    enteredEvent .int3 noTask3 = some (bySoftware 3#8 1 noTask3) ∧ noTask3.pe = true ∧
      entryBytes (bySoftware 3#8 1 noTask3) noTask3 = 20 := ⟨rfl, rfl, by decide⟩

/-- Where an exception's is, at itself (vector B5): the error code makes six. -/
theorem witness_InstructionFrame_raised :
    enteredEvent (.intImm8 9) noTask3 = some (byException .gp 0x4A#16 noTask3) ∧ noTask3.pe = true ∧
      entryBytes (byException .gp 0x4A#16 noTask3) noTask3 = 24 := by decide

/-- In Real Address Mode. -/
theorem witness_InstructionFrame_real :
    NoTaskGates (real 0xA02#16 0x1000#16) ∧
      enteredEvent (.intImm8 0x21) (real 0xA02#16 0x1000#16) =
        some (bySoftware 0x21#8 2 (real 0xA02#16 0x1000#16)) ∧
      (real 0xA02#16 0x1000#16).pe = false :=
  ⟨noTaskGates_real _ _, by decide, rfl⟩

theorem witness_EveryOutcome : NoTaskGates (real 0xA02#16 0x1000#16) ∧
    ∃ t, exec (.intImm8 0x21) (real 0xA02#16 0x1000#16) = .next t ∧ t.shutdown = false :=
  ⟨noTaskGates_real _ _, _, next_of_isNext (by decide), by decide⟩

theorem witness_PrivilegeAndModes : NoTaskGates noTask3 ∧
    (∃ t, exec .int3 noTask3 = .next t ∧ t.shutdown = false) := witness_InstructionFrame

theorem witness_ChangedBytesAreRemembered : NoTaskGates noTask3 ∧
    (∃ t, exec .int3 noTask3 = .next t ∧ t.shutdown = false) := witness_InstructionFrame

theorem witness_GeneralRegistersDoNotMatter : NoTaskGates noTask3 ∧
    (∃ t, exec .int3 noTask3 = .next t ∧ t.shutdown = false) := witness_InstructionFrame

theorem witness_ExternalInterruptDelivery :
    (prot3.shutdown = false ∧ prot3.eflags.getLsbD 9 = true) ∧
      State.reset.shutdown = false ∧ State.reset.eflags.getLsbD 9 = false := by decide

theorem witness_GatesDifferInInterruptFlag : (v86 0x20202#32).nestedTaskFlag = false := by decide

/-- A push on each kind of stack: ESP, SP in Protected Mode, SP at selector * 16. -/
theorem witness_PushStoresAtTheNewTop :
    (prot3.pe = true ∧ prot3.vmFlag = false ∧ prot3.ss.inv.big = true) ∧
      ¬ (State.reset.pe = true ∧ State.reset.vmFlag = false) ∧
      ¬ ((v86 0x20202#32).pe = true ∧ (v86 0x20202#32).vmFlag = false) := by decide

theorem witness_TssStackPairs : prot3.tr.is386 = true ∧
    { prot3.tr with is386 := false }.is386 = false := by decide

/-- The limit test at the last byte, in each kind of segment. -/
theorem witness_SegmentAndStackBounds_segment :
    (Ar.isExpandDown 0x93#8 = false ∧ InSegment (resetHidden 0) 0xFFFF 1 ∧ ¬ InSegment (resetHidden 0) 0xFFFF 2) ∧
      Ar.isExpandDown 0x97#8 = true ∧
      let down : Hidden := { base := 0, limit := 0xFFF#32, ar := 0x97#8, big := false }
      InSegment down 0xFFFF 1 ∧ ¬ InSegment down 0xFFFF 2 ∧ InSegment down 0x1000 1 ∧ ¬ InSegment down 0xFFF 1 := by
  decide

/-- The room below SP = 0, which is all of the segment, and below SP = 6. -/
theorem witness_SegmentAndStackBounds_room :
    (RoomNotWrapping false 0#32 0x10000 ∧ ¬ RoomNotWrapping false 0#32 0x10001) ∧
      (RoomNotWrapping false 6#32 6 ∧ ¬ RoomNotWrapping false 6#32 7) ∧
      StackRoom (resetHidden 0) false 0#32 6 ∧
      let down : Hidden := { base := 0, limit := 0xFFF#32, ar := 0x97#8, big := false }
      StackRoom down false 0x1006#32 6 ∧ ¬ StackRoom down false 0x1005#32 6 := by decide

/-- A code segment of each kind: 32-bit, 16-bit, and in Virtual 8086 Mode. -/
theorem witness_CodeSegmentByMode :
    (prot3.pe = true ∧ prot3.vmFlag = false ∧ prot3.cs.inv.big = true) ∧ State.reset.pe = false ∧
      (v86 0x20202#32).pe = true ∧ (v86 0x20202#32).vmFlag = true := by decide

theorem witness_MemoryIsLittleEndian : Memory.wf prot3.mem ∧ prot3.FreeWf := by decide

end Sys2Proof.Tests
end

section
/-! PROOFS. The fields of an access-rights byte (rule R52) and of a selector (rule R49): the word that given fields
make, and what each accessor of the model reads from it. -/

namespace Sys2Proof.Machine

/-! ### One-bit fields -/

theorem bit_set_iff (b : BitVec 1) : b.getLsbD 0 = true ↔ b = 1#1 := by
  obtain rfl | rfl := b.eq_zero_or_eq_one <;> decide

theorem bit_clear_iff (b : BitVec 1) : b.getLsbD 0 = false ↔ b = 0#1 := by
  obtain rfl | rfl := b.eq_zero_or_eq_one <;> decide

/-! ### The access-rights byte -/

namespace Ar

/-- The access-rights byte with the given fields, from bit 7 down to bit 0 (rule R52). -/
def ofFields (present : BitVec 1) (dpl : BitVec 2) (segment code conforming readable accessed : BitVec 1) : Byte :=
  present ++ dpl ++ segment ++ code ++ conforming ++ readable ++ accessed

variable (p : BitVec 1) (d : BitVec 2) (s c f r a : BitVec 1)

/-- Bit `n` lies in the field whose place it is. -/
theorem getLsbD_ofFields (n : Nat) : (ofFields p d s c f r a).getLsbD n =
    if n < 1 then a.getLsbD n else if n < 2 then r.getLsbD (n - 1) else if n < 3 then f.getLsbD (n - 2)
    else if n < 4 then c.getLsbD (n - 3) else if n < 5 then s.getLsbD (n - 4)
    else if n < 7 then d.getLsbD (n - 5) else p.getLsbD (n - 7) := by
  have below (k w : Nat) (h : 0 < w) : n - k < w ↔ n < k + w := by omega
  rw [ofFields]
  iterate 6 rw [BitVec.getLsbD_append]
  simp only [Nat.sub_sub, Nat.reduceAdd, below, Nat.zero_lt_succ]

theorem ofFields_bit7 : (ofFields p d s c f r a).getLsbD 7 = p.getLsbD 0 := getLsbD_ofFields ..

theorem ofFields_bit4 : (ofFields p d s c f r a).getLsbD 4 = s.getLsbD 0 := getLsbD_ofFields ..

theorem ofFields_bit3 : (ofFields p d s c f r a).getLsbD 3 = c.getLsbD 0 := getLsbD_ofFields ..

theorem ofFields_bit2 : (ofFields p d s c f r a).getLsbD 2 = f.getLsbD 0 := getLsbD_ofFields ..

theorem ofFields_bit1 : (ofFields p d s c f r a).getLsbD 1 = r.getLsbD 0 := getLsbD_ofFields ..

theorem ofFields_bit0 : (ofFields p d s c f r a).getLsbD 0 = a.getLsbD 0 := getLsbD_ofFields ..

theorem present_ofFields : present (ofFields p d s c f r a) = true ↔ p = 1#1 := by
  rw [present, ofFields_bit7, bit_set_iff]

theorem dpl_ofFields : dpl (ofFields p d s c f r a) = d := by
  rw [dpl, ofFields]
  iterate 5 rw [BitVec.extractLsb'_append_eq_of_le (by decide)]
  exact BitVec.extractLsb'_append_eq_right

theorem isCode_ofFields : isCode (ofFields p d s c f r a) = true ↔ s = 1#1 ∧ c = 1#1 := by
  rw [isCode, Bool.and_eq_true, ofFields_bit4, ofFields_bit3, bit_set_iff, bit_set_iff]

theorem isConforming_ofFields :
    isConforming (ofFields p d s c f r a) = true ↔ s = 1#1 ∧ c = 1#1 ∧ f = 1#1 := by
  rw [isConforming, Bool.and_eq_true, isCode_ofFields, ofFields_bit2, bit_set_iff, and_assoc]

theorem isWritableData_ofFields :
    isWritableData (ofFields p d s c f r a) = true ↔ s = 1#1 ∧ c = 0#1 ∧ r = 1#1 := by
  rw [isWritableData, Bool.and_eq_true, Bool.and_eq_true, Bool.not_eq_true', ofFields_bit4, ofFields_bit3,
    ofFields_bit1, bit_set_iff, bit_clear_iff, bit_set_iff, and_assoc]

theorem isExpandDown_ofFields :
    isExpandDown (ofFields p d s c f r a) = true ↔ s = 1#1 ∧ c = 0#1 ∧ f = 1#1 := by
  rw [isExpandDown, Bool.and_eq_true, Bool.and_eq_true, Bool.not_eq_true', ofFields_bit4, ofFields_bit3,
    ofFields_bit2, bit_set_iff, bit_clear_iff, bit_set_iff, and_assoc]

theorem accessed_ofFields : accessed (ofFields p d s c f r a) = true ↔ a = 1#1 := by
  rw [accessed, ofFields_bit0, bit_set_iff]

end Ar

/-! ### Selectors -/

namespace Selector

/-- The selector with the given fields, from bit 15 down to bit 0 (rule R49). -/
def ofFields (index : BitVec 13) (isLocal : BitVec 1) (rpl : BitVec 2) : Word := index ++ isLocal ++ rpl

variable (i : BitVec 13) (l : BitVec 1) (r k : BitVec 2)

theorem index_ofFields : index (ofFields i l r) = i.toNat := by
  rw [index, ofFields, BitVec.extractLsb'_append_eq_of_le (by decide), BitVec.extractLsb'_append_eq_left]

theorem isLocal_ofFields : isLocal (ofFields i l r) = true ↔ l = 1#1 := by
  have h : (ofFields i l r).getLsbD 2 = l.getLsbD 0 := by
    rw [ofFields, BitVec.getLsbD_append, BitVec.getLsbD_append]
    rfl
  rw [isLocal, h, bit_set_iff]

theorem rpl_ofFields : rpl (ofFields i l r) = r := BitVec.setWidth_append_eq_right

/-- Bits 15:2 of a selector are its index and its local/global bit. -/
theorem extractLsb'_ofFields : (ofFields i l r).extractLsb' 2 14 = i ++ l :=
  BitVec.extractLsb'_append_eq_left

theorem isNull_ofFields : IsNull (ofFields i l r) ↔ i = 0#13 ∧ l = 0#1 := by
  rw [IsNull, extractLsb'_ofFields]
  constructor
  · intro h
    have hi := congrArg (BitVec.extractLsb' 1 13) h
    have hl := congrArg (BitVec.setWidth 1) h
    rw [BitVec.extractLsb'_append_eq_left] at hi
    rw [BitVec.setWidth_append_eq_right] at hl
    exact ⟨hi, hl⟩
  · rintro ⟨rfl, rfl⟩
    exact BitVec.zero_append_zero

theorem withRpl_ofFields : withRpl (ofFields i l r) k = ofFields i l k := by
  rw [withRpl, extractLsb'_ofFields, ofFields]

end Selector

/-- Settles O52, field by field: both words are the ones `ofFields` makes, and every accessor's lemma names the field
it reads. -/
theorem accessRightsAndSelectors : Obligations.AccessRightsAndSelectors := by
  constructor
  · intro present dpl segment code conforming readable accessed
    exact ⟨Ar.present_ofFields .., Ar.dpl_ofFields .., Ar.isCode_ofFields .., Ar.isConforming_ofFields ..,
      Ar.isWritableData_ofFields .., Ar.isExpandDown_ofFields .., Ar.accessed_ofFields .., rfl⟩
  · intro index isLocal rpl k
    exact ⟨Selector.index_ofFields .., Selector.isLocal_ofFields .., Selector.rpl_ofFields ..,
      Selector.isNull_ofFields .., Selector.withRpl_ofFields ..⟩

end Sys2Proof.Machine
end

section
/-! PROOFS. The machine state stays legal: through a delivery, an interrupt, an instruction and a step. -/

namespace Sys2Proof.Machine

namespace State.Legal

variable {s : State}

/-- The two halves of a legal state: memory, and the registers of a processor that runs. -/
theorem of_parts (hm : MemLegal s) (hr : s.shutdown = false → s.RegistersLegal) : s.Legal :=
  ⟨hm.mem, hm.free, hm.pushed, hr⟩

theorem memLegal (h : s.Legal) : MemLegal s :=
  ⟨h.1, h.2.1, h.2.2.1⟩

theorem registersLegal (h : s.Legal) (hs : s.shutdown = false) : s.RegistersLegal := h.2.2.2 hs

/-- EIP has no part in what is legal. -/
theorem withEip (h : s.Legal) (e : DWord) : State.Legal { s with eip := e } := h

end State.Legal

/-! ### A delivery -/

section Delivery
variable {ev : Event} {s t : State}

/-- The push of an error code in a new task keeps its state legal. -/
theorem inTask_legal {u : State} (h : u.Legal) : (inTask ev u).Legal := by
  unfold inTask
  split
  · exact h
  · exact .of_parts (h.memLegal.push16 _) h.registersLegal

theorem inTask_shutdown (u : State) : (inTask ev u).shutdown = u.shutdown := by
  unfold inTask
  split <;> rfl

/-- A transfer through a gate leaves a legal state, by each of its three paths. -/
theorem GateTransfer.legal {size : GateSize} {b : Bool} (h : GateTransfer ev s t size b) (hpe : s.pe = true)
    (hl : s.Legal) (hs : s.shutdown = false) : t.Legal := by
  have hr := hl.registersLegal hs
  cases h with
  | inner n _ _ vm _ result =>
    exact result ▸ .of_parts (hl.memLegal.innerTransfer ..) fun _ => innerTransfer_registersLegal hpe vm hr
  | fromV86 n _ _ _ _ _ _ _ result =>
    exact result ▸ .of_parts (hl.memLegal.v86Transfer ..) fun _ => v86Transfer_registersLegal hpe hr
  | same _ _ vm _ _ _ _ result =>
    exact result ▸ .of_parts (hl.memLegal.sameTransfer ..) fun _ => sameTransfer_registersLegal hpe vm hr

theorem Transferred.legal (h : Transferred ev s t) (hl : s.Legal) (hs : s.shutdown = false) : t.Legal := by
  cases h with
  | real mode _ _ _ result =>
    exact result ▸ .of_parts (hl.memLegal.realTransfer ev) fun _ =>
      realTransfer_registersLegal mode (hl.registersLegal hs)
  | gate _ _ mode _ _ path => exact path.legal mode hl hs
  | task u _ _ switched result => exact result ▸ inTask_legal switched.legal

/-- A shutdown leaves no register legal by itself, and needs none to be. -/
theorem enterShutdown_legal (hl : s.Legal) : s.enterShutdown.Legal :=
  .of_parts (enterShutdown_memLegal hl.memLegal.pushed) nofun

/-- A delivery that ends, completed or in a shutdown, ends in a legal state. -/
theorem deliver_ends_legal (hl : s.Legal) (hs : s.shutdown = false)
    (h : deliver ev s = .transferred t ∨ deliver ev s = .shutDown t) : t.Legal := by
  rcases h with h | h
  · obtain ⟨_, _, h⟩ := deliver_transferred h
    exact h.legal hl hs
  · obtain ⟨_, _, _, rfl⟩ := deliver_shutDown h
    exact enterShutdown_legal hl

/-- A delivery that raises does so in a legal running state, be it after a task switch. -/
theorem deliver_raised_legal {e : Exc} {c : Word} (hl : s.Legal) (hs : s.shutdown = false)
    (h : deliver ev s = .raised t e c) : t.Legal ∧ t.shutdown = false := by
  obtain ⟨_, _, rfl | ⟨_, u, hu, rfl | rfl⟩⟩ := deliver_raised h
  · exact ⟨hl, hs⟩
  · exact ⟨hu.legal, hu.running⟩
  · exact ⟨inTask_legal hu.legal, (inTask_shutdown u).trans hu.running⟩

end Delivery

/-! ### Interrupts, instructions, steps -/

section Invariant
variable {s t : State}

theorem raiseException_legal {e : Exc} {c : Word} {origin : State} (hl : s.Legal) (hs : s.shutdown = false)
    (h : raiseException e c origin s = .next t) : t.Legal :=
  deliver_ends_legal hl hs (raiseException_next h)

theorem interrupt_legal {ev : Event} (hl : s.Legal) (hs : s.shutdown = false) (h : interrupt ev s = .next t) :
    t.Legal := by
  rcases interrupt_next h with h | ⟨_, u, e, c, hu, h⟩
  · exact deliver_ends_legal hl hs h
  · obtain ⟨hlu, hsu⟩ := deliver_raised_legal hl hs hu
    exact deliver_ends_legal hlu hsu h

theorem exec_legal {i : Instr} (hl : s.Legal) (h : exec i s = .next t) : t.Legal := by
  obtain ⟨hr, ⟨n, _, h⟩ | ⟨_, _, rfl⟩ | ⟨imm8, _, _, _, h⟩⟩ := exec_next h
  · exact interrupt_legal hl hr.running h
  · exact hl.withEip _
  · exact raiseException_legal hl hr.running h

theorem externalInterrupt_legal {vector : Byte} (hl : s.Legal) (h : externalInterrupt vector s = .next t) :
    t.Legal := by
  unfold externalInterrupt at h
  split at h
  · cases h
  · rename_i hs
    split at h
    · exact interrupt_legal hl (by simpa using hs) h
    · cases h; exact hl

theorem foreignException_legal {vector : Byte} {code : Option Word} {selector : Word} {offset : DWord}
    (hl : s.Legal) (h : foreignException vector code selector offset s = .next t) : t.Legal := by
  unfold foreignException at h
  split at h
  · cases h
  · rename_i hs
    exact interrupt_legal hl (by simpa using hs) h

end Invariant

/-- Settles O6: a step is the instruction it fetched, an instruction is an interrupt, an exception or an advance of
EIP, and every way in which a delivery ends keeps the state legal. -/
theorem stepKeepsInvariant : Obligations.StepKeepsInvariant := by
  intro s t hl h
  obtain ⟨i, _, h⟩ := step_next h
  exact exec_legal hl h

/-- Settles O7, by the same lemma on interrupts that serves the instructions. -/
theorem outsideEventsKeepInvariant : Obligations.OutsideEventsKeepInvariant := by
  rintro s t vector code selector offset hl (h | h)
  · exact externalInterrupt_legal hl h
  · exact foreignException_legal hl h

end Sys2Proof.Machine
end

section
/-! PROOFS. Every completed delivery that is no task switch has entered a handler: the path was open, and the state
is the one that the path's predicate describes. -/

namespace Sys2Proof.Machine

/-! ### The predicates of a path and the checks that pass -/

section Paths
variable {ev : Event} {s : State}

theorem gateOpen_iff {kind : GateKind} (hpe : s.pe = true) (hp : s.paging = false) :
    GateOpen ev s kind ↔ gateChecks ev s = .ok kind := by
  rw [gateChecks_ok]
  exact ⟨fun h => ⟨h.inIdt, h.kind, h.privileged, h.present⟩,
    fun ⟨inIdt, kind, privileged, present⟩ => ⟨hpe, hp, inIdt, kind, privileged, present⟩⟩

theorem codeOpen_iff {g : Target} : CodeOpen s g ↔ codeChecks ev s g = .ok () := by
  rw [codeChecks_ok]
  exact ⟨fun h => ⟨h.notNull, h.inLimits, h.isCode, h.present⟩,
    fun ⟨notNull, inLimits, isCode, present⟩ => ⟨notNull, inLimits, isCode, present⟩⟩

/-- The bytes of `k` pushes and the error code's, counted in pushes or by the model's own `errorBytes`. -/
theorem pushes_bytes (ev : Event) (size : GateSize) (k : Nat) :
    (k + (errorSlots ev).length) * size.bytes = k * size.bytes + errorBytes ev size := by
  rw [Nat.add_mul, errorSlots_length]

theorem same_bytes (ev : Event) (size : GateSize) :
    (3 + (errorSlots ev).length) * size.bytes = sameBytes size + errorBytes ev size := by
  rw [pushes_bytes]; cases size <;> rfl

theorem inner_bytes (ev : Event) (size : GateSize) :
    (5 + (errorSlots ev).length) * size.bytes = innerBytes size + errorBytes ev size := by
  rw [pushes_bytes]; cases size <;> rfl

theorem v86_bytes (ev : Event) : (9 + (errorSlots ev).length) * 4 = v86Bytes + errorBytes ev .bits32 :=
  pushes_bytes ev .bits32 9

end Paths

/-! ### The privilege level by mode -/

theorem privilege_real {s : State} (hp : s.pe = false) : s.privilege = 0#2 := by
  simp [State.privilege, mode_real hp]

theorem privilege_v86 {s : State} (hp : s.pe = true) (hv : s.vmFlag = true) : s.privilege = 3#2 := by
  simp [State.privilege, mode_v86 hp hv]

theorem privilege_prot {s : State} (hp : s.pe = true) (hv : s.vmFlag = false) : s.privilege = s.cpl := by
  simp [State.privilege, mode_prot hp hv]

/-! ### The flags an entry clears -/

namespace FlagsCleared

variable {bits bits' : List Nat} {f g : DWord}

theorem refl (f : DWord) : FlagsCleared [] f f := fun k => by simp

/-- One more bit written to 0. -/
theorem clear (h : FlagsCleared bits f g) (n : Nat) : FlagsCleared (n :: bits) f (Flags.clear g n) := by
  intro k
  rw [Flags.getLsbD_clear, h k]
  by_cases hk : k = n <;> simp [hk]

/-- The order of the bits does not matter. -/
theorem perm (h : FlagsCleared bits f g) (hp : bits.Perm bits') : FlagsCleared bits' f g := by
  intro k
  rw [h k]
  simp only [hp.mem_iff]

end FlagsCleared

theorem flagsCleared_afterRealEntry (f : DWord) : FlagsCleared [8, 9] f (Flags.afterRealEntry f) :=
  ((FlagsCleared.refl f).clear 9).clear 8

theorem flagsCleared_afterGateEntry (b : Bool) (f : DWord) :
    FlagsCleared (gateFlags b) f (Flags.afterGateEntry b f) := by
  cases b with
  | false => exact (((FlagsCleared.refl f).clear 8).clear 14).perm (by decide)
  | true => exact ((((FlagsCleared.refl f).clear 9).clear 8).clear 14).perm (by decide)

theorem flagsCleared_afterV86Entry (b : Bool) (f : DWord) :
    FlagsCleared (v86Flags b) f (Flags.afterV86Entry b f) := by
  cases b with
  | false => exact ((FlagsCleared.refl f).clear 17).clear 8
  | true => exact ((((FlagsCleared.refl f).clear 17).clear 8).clear 9).perm (by decide)

/-- A doubleword is its high word above its low word. -/
theorem high_append_low (d : DWord) : d.extractLsb' 16 16 ++ d.setWidth 16 = d := by
  rw [BitVec.setWidth_eq_extractLsb' (by decide), BitVec.extractLsb'_append_extractLsb'_eq_extractLsb' (by decide)]
  exact BitVec.extractLsb'_eq_self

/-! ### What each transfer leaves is what its predicate says -/

section Entered
variable {ev : Event} {s : State}

/-- Rule R103. -/
theorem realEntered_realTransfer (hp : s.pe = false) :
    RealEntered ev.vector ev.retSelector ev.retOffset s (realTransfer ev s) := by
  obtain ⟨hsp, hhigh, h0, h1, h2, hmem⟩ := realPushed_stack ev s hp
  obtain ⟨hsel, hinv, heip⟩ := realTransfer_load ev s
  exact {
    pointer := by
      rw [realTransfer_esp, ← hsp, ← hhigh]
      exact (high_append_low _).symm
    returnIp := h0
    returnCs := h1
    image := h2
    memory := hmem
    selector := hsel
    hidden := hinv
    offset := heip
    flags := by rw [realTransfer_eflags]; exact flagsCleared_afterRealEntry _
    others := by apply State.ext <;> simp }

/-- Rule R116. -/
theorem sameEntered_sameTransfer {g : Target} (hp : s.pe = true) (hv : s.vmFlag = false)
    (hroom : RoomNotWrapping s.ss.inv.big s.esp (sameBytes g.size + errorBytes ev g.size)) :
    SameEntered ev g s (sameTransfer ev g s) := by
  obtain ⟨hstack, hmem, hesp⟩ := sameTransfer_stack ev g s hp hv hroom
  exact {
    pointer := by rw [same_bytes]; exact hesp
    stack := hstack
    memory := by rw [same_bytes]; exact hmem
    code := by rw [sameTransfer_cs, privilege_prot hp hv]
    offset := sameTransfer_eip ..
    flags := by rw [sameTransfer_eflags]; exact flagsCleared_afterGateEntry _ _
    others := by apply State.ext <;> simp }

/-- Rule R112. -/
theorem innerEntered_innerTransfer {g : Target} {n : NewStack} (hp : s.pe = true) (hv : s.vmFlag = false)
    (hroom : RoomNotWrapping n.inv.big n.pointer (innerBytes g.size + errorBytes ev g.size)) :
    InnerEntered ev g n s (innerTransfer ev g n s) := by
  obtain ⟨hstack, hmem, hesp⟩ := innerTransfer_stack ev g n s hp hv hroom
  exact {
    pointer := by rw [inner_bytes]; exact hesp
    stack := hstack
    memory := by rw [inner_bytes]; exact hmem
    newStack := innerTransfer_ss ..
    code := innerTransfer_cs ..
    offset := innerTransfer_eip ..
    level := innerTransfer_cpl ..
    flags := by rw [innerTransfer_eflags]; exact flagsCleared_afterGateEntry _ _
    others := by apply State.ext <;> simp }

/-- Rule R114. -/
theorem v86Entered_v86Transfer {g : Target} {n : NewStack} (hp : s.pe = true) (hsize : g.size = .bits32)
    (hroom : RoomNotWrapping n.inv.big n.pointer (v86Bytes + errorBytes ev g.size)) :
    V86Entered ev g n s (v86Transfer ev g n s) := by
  obtain ⟨hstack, hmem, hesp⟩ := v86Transfer_stack ev g n s hp hsize hroom
  rw [hsize] at hmem hesp
  exact {
    pointer := by rw [v86_bytes]; exact hesp
    stack := hstack
    memory := by rw [v86_bytes]; exact hmem
    newStack := v86Transfer_ss ..
    code := v86Transfer_cs ..
    offset := v86Transfer_eip ..
    level := v86Transfer_cpl ..
    flags := by rw [v86Transfer_eflags]; exact flagsCleared_afterV86Entry _ _
    nullDs := v86Transfer_ds ..
    nullEs := v86Transfer_es ..
    nullFs := v86Transfer_fs ..
    nullGs := v86Transfer_gs ..
    others := by apply State.ext <;> simp }

end Entered

/-! ### From a completed delivery to the handler, and back -/

section Handler
variable {ev : Event} {s t : State}

/-- A transfer through an interrupt or trap gate has entered a handler by one of the three paths. -/
theorem GateTransfer.handlerEntered {size : GateSize} {b : Bool} (h : GateTransfer ev s t size b)
    (gate : GateOpen ev s (GateKind.through size b)) (code : CodeOpen s (gateTarget s ev.vector size b)) :
    HandlerEntered ev s t := by
  cases h with
  | same notInner dpl vm noWrap room inCode accessed result =>
    refine .inr (.inl ⟨size, b, ⟨gate, code, vm, dpl, ?_, ?_⟩,
      result ▸ sameEntered_sameTransfer gate.mode vm noWrap⟩)
    · by_cases conf : Ar.isConforming (gateTarget s ev.vector size b).code.ar = true
      · exact .inl conf
      · exact .inr (BitVec.le_antisymm dpl (BitVec.not_lt.1 fun below => notInner ⟨by simpa using conf, below⟩))
    · rw [same_bytes]; exact ⟨noWrap, room, inCode, accessed⟩
  | inner n conf dpl vm ready result =>
    exact .inr (.inr (.inl ⟨size, b, n, ⟨gate, code, vm, conf, dpl, by rw [inner_bytes]; exact ready⟩,
      result ▸ innerEntered_innerTransfer gate.mode vm ready.noWrap⟩))
  | fromV86 n conf _ vm dpl wide nt ready result =>
    subst wide
    exact .inr (.inr (.inr ⟨b, n, ⟨gate, code, vm, nt, conf, dpl, by rw [v86_bytes]; exact ready⟩,
      result ▸ v86Entered_v86Transfer gate.mode rfl ready.noWrap⟩))

theorem NoTaskGates.gateChecks_ne (h : NoTaskGates s) (hpe : s.pe = true) : gateChecks ev s ≠ .ok .taskGate := by
  rw [ne_eq, gateChecks_ok]
  rintro ⟨inIdt, kind, _⟩
  exact h hpe _ inIdt kind

/-- Where no gate is a task gate, a completed delivery has entered a handler. -/
theorem deliver_handlerEntered (hn : NoTaskGates s) (h : deliver ev s = .transferred t) :
    HandlerEntered ev s t := by
  obtain ⟨hp, _, h⟩ := deliver_transferred h
  cases h with
  | real mode narrow stack inIdt result =>
    exact .inl ⟨⟨mode, narrow, by simpa [not_or] using stack, inIdt⟩, result ▸ realEntered_realTransfer mode⟩
  | gate size b mode kind code path =>
    exact path.handlerEntered ((gateOpen_iff mode hp).2 kind) (codeOpen_iff.2 code)
  | task u mode kind => exact absurd kind (hn.gateChecks_ne mode)

/-- Where no gate is a task gate, a delivery raises in the state it began with. -/
theorem deliver_raised_same {e : Exc} {c : Word} (hn : NoTaskGates s) (h : deliver ev s = .raised t e c) :
    s.pe = true ∧ t = s := by
  obtain ⟨hpe, _, rfl | ⟨kind, _⟩⟩ := deliver_raised h
  · exact ⟨hpe, rfl⟩
  · exact absurd kind (hn.gateChecks_ne hpe)

/-- The Virtual 8086 Mode path is a transfer of the model. -/
theorem V86Path.deliver {b : Bool} {n : NewStack} (h : V86Path ev s b n) :
    deliver ev s = .transferred (v86Transfer ev (gateTarget s ev.vector .bits32 b) n s) := by
  have hpe := h.gate.mode
  have below : Ar.dpl (gateTarget s ev.vector .bits32 b).code.ar < s.privilege := by
    rw [h.level, privilege_v86 hpe h.inV86]; decide
  have ready := h.ready
  rw [v86_bytes] at ready
  exact deliver_through_gate h.gate.noPaging hpe ((gateOpen_iff hpe h.gate.noPaging).1 h.gate)
    (codeOpen_iff.1 h.code) (.fromV86 n h.nonConforming below h.inV86 h.level rfl h.notNested ready rfl)

end Handler

/-- Settles O31: an open Virtual 8086 path is the transfer of rule R114, whose stack and registers are those of
`V86Entered`. -/
theorem v86ModeEntry : Obligations.V86ModeEntry := by
  intro ev s b n h
  have room := h.ready.noWrap
  rw [v86_bytes] at room
  exact ⟨_, h.deliver, v86Entered_v86Transfer h.gate.mode rfl room⟩

/-! ### Every outcome of an instruction -/

section Events
variable {s : State}

/-- The two names of a software interrupt's event. -/
theorem softwareEvent_eq (n : Byte) (len : Nat) (s : State) : softwareEvent n s len = bySoftware n len s := rfl

/-- The two names of a raised exception's event. -/
theorem exceptionEvent_eq (e : Exc) (code : Word) (s : State) : exceptionEvent e code s = byException e code s := by
  cases e <;> rfl

theorem mode_eq_v86_iff : s.mode = .v86 ↔ s.pe = true ∧ s.vmFlag = true := by
  cases hp : s.pe <;> cases hv : s.vmFlag <;> simp [State.mode, hp, hv]

end Events

/-- What delivers an exception from Protected Mode where no gate is a task gate ends in its handler. -/
theorem exception_handlerEntered {s t : State} {e : Exc} {code : Word} (hn : NoTaskGates s) (hpe : s.pe = true)
    (h : deliver (exceptionEvent e code s) s = .transferred t ∨ deliver (exceptionEvent e code s) s = .shutDown t) :
    HandlerEntered (byException e code s) s t := by
  rw [exceptionEvent_eq] at h
  rcases h with h | h
  · exact deliver_handlerEntered hn h
  · have hreal := (deliver_shutDown h).1
    simp [hpe] at hreal

/-- Settles O39, by the inversions of `exec` and of `interrupt`: an interrupt's own delivery completes or shuts the
processor down, or it raises and the exception's delivery, which cannot shut down in Protected Mode, completes. -/
theorem everyOutcome : Obligations.EveryOutcome := by
  intro i s t hn h
  obtain ⟨_, ⟨n, hi, h⟩ | ⟨rfl, hof, rfl⟩ | ⟨imm8, rfl, hm, hio, h⟩⟩ := exec_next h
  · rcases interrupt_next h with (h | h) | ⟨_, u, e, c, hraised, h⟩
    · exact .inr (.inr (.inl ⟨n, hi, h, deliver_handlerEntered hn h⟩))
    · obtain ⟨hpe, _, hsp, rfl⟩ := deliver_shutDown h
      exact .inr (.inl ⟨n, hi, hpe, hsp, rfl⟩)
    · obtain ⟨hpe, rfl⟩ := deliver_raised_same hn hraised
      exact .inr (.inr (.inr ⟨e, c, hpe, .inl ⟨n, hi, hraised⟩, exception_handlerEntered hn hpe h⟩))
  · exact .inl ⟨rfl, hof, rfl⟩
  · obtain ⟨hpe, hv⟩ := mode_eq_v86_iff.1 hm
    exact .inr (.inr (.inr ⟨.gp, 0#16, hpe, .inr ⟨imm8, rfl, hv, hio, rfl, rfl⟩,
      exception_handlerEntered hn hpe (raiseException_next h)⟩))

end Sys2Proof.Machine
end

section
/-! PROOFS. What an instruction leaves unchanged, what it does to privilege and mode, and that the seven general
registers have no part in it: consequences of the ways in which an instruction ends. -/

namespace Sys2Proof.Machine

/-! ### How a running instruction ends -/

/-- Where no gate is a task gate and the processor runs on, an instruction enters the handler of its event, or has
none and advances EIP. -/
theorem exec_runs_on {i : Instr} {s t : State} (hn : NoTaskGates s) (h : exec i s = .next t)
    (hrun : t.shutdown = false) :
    (enteredEvent i s = none ∧ t = { s with eip := s.eip + 1#32 }) ∨
      ∃ ev, enteredEvent i s = some ev ∧ HandlerEntered ev s t := by
  obtain ⟨rfl, hof, ht⟩ | ⟨_, _, _, _, hdown⟩ | ⟨n, hi, hd, hh⟩ | ⟨e, code, hpe, hraise, hh⟩ :=
    everyOutcome i s t hn h
  · exact .inl ⟨by simp [enteredEvent, interruptOf, hof], ht⟩
  · simp [hrun] at hdown
  · exact .inr ⟨_, by simp only [enteredEvent, hi, hd], hh⟩
  · refine .inr ⟨_, ?_, hh⟩
    obtain ⟨n, hi, hd⟩ | ⟨imm8, rfl, hv, hio, rfl, rfl⟩ := hraise
    · simp only [enteredEvent, hi, hd]
    · have hm : s.mode = .v86 := mode_eq_v86_iff.2 ⟨hpe, hv⟩
      simp [enteredEvent, interruptOf, hm, hio]

/-! ### The flags and the mode of a handler -/

section Flags
variable {bits : List Nat} {s t : State}

/-- A bit that the list does not name is as before. -/
theorem FlagsCleared.getLsbD_of_not_mem {f g : DWord} {k : Nat} (h : FlagsCleared bits f g) (hk : k ∉ bits) :
    g.getLsbD k = f.getLsbD k := by
  rw [h k, if_neg hk]

theorem FlagsCleared.vmFlag_of_not_mem (h : FlagsCleared bits s.eflags t.eflags) (hk : 17 ∉ bits) :
    t.vmFlag = s.vmFlag := h.getLsbD_of_not_mem hk

theorem FlagsCleared.vmFlag_of_mem (h : FlagsCleared bits s.eflags t.eflags) (hk : 17 ∈ bits) :
    t.vmFlag = false := (h 17).trans (if_pos hk)

theorem gateFlags_subset (b : Bool) :
    gateFlags b ⊆ [Flags.tfBit, Flags.ifBit, Flags.ntBit, Flags.vmBit] := by cases b <;> decide

theorem v86Flags_subset (b : Bool) :
    v86Flags b ⊆ [Flags.tfBit, Flags.ifBit, Flags.ntBit, Flags.vmBit] := by cases b <;> decide

theorem vm_not_mem_gateFlags (b : Bool) : 17 ∉ gateFlags b := by cases b <;> decide

theorem vm_mem_v86Flags (b : Bool) : 17 ∈ v86Flags b := by cases b <;> decide

end Flags

/-! ### What every entry to a handler has in common -/

namespace HandlerEntered

variable {ev : Event} {s t : State}

/-- The components that some entry changes; every other one is as before. -/
theorem others (h : HandlerEntered ev s t) : t = { s with
    esp := t.esp, eip := t.eip, eflags := t.eflags, cpl := t.cpl, cs := t.cs, ss := t.ss, ds := t.ds,
    es := t.es, fs := t.fs, gs := t.gs, mem := t.mem, free := t.free, pushed := t.pushed, draws := t.draws } := by
  obtain ⟨_, h⟩ | ⟨size, b, _, h⟩ | ⟨size, b, n, _, h⟩ | ⟨b, n, _, h⟩ := h
  · rw [h.others]
  · rw [h.others]
  · rw [h.others]
  · exact h.others

theorem pe (h : HandlerEntered ev s t) : t.pe = s.pe := by rw [h.others]

/-- The components that the instructions' frame names. -/
theorem kept (h : HandlerEntered ev s t) : t.gpr = s.gpr ∧ t.paging = s.paging ∧ t.idtr = s.idtr ∧
    t.gdtr = s.gdtr ∧ t.ldtr = s.ldtr ∧ t.tr = s.tr := by
  rw [h.others]
  exact ⟨rfl, rfl, rfl, rfl, rfl, rfl⟩

/-- No entry clears a flag other than TF, IF, NT and VM. -/
theorem flags (h : HandlerEntered ev s t) :
    ∃ bits, bits ⊆ [Flags.tfBit, Flags.ifBit, Flags.ntBit, Flags.vmBit] ∧
      FlagsCleared bits s.eflags t.eflags := by
  obtain ⟨_, h⟩ | ⟨size, b, _, h⟩ | ⟨size, b, n, _, h⟩ | ⟨b, n, _, h⟩ := h
  · exact ⟨_, by decide, h.flags⟩
  · exact ⟨_, gateFlags_subset _, h.flags⟩
  · exact ⟨_, gateFlags_subset _, h.flags⟩
  · exact ⟨_, v86Flags_subset _, h.flags⟩

/-- Outside Virtual 8086 Mode an entry leaves the data segment registers. -/
theorem dataSegments (h : HandlerEntered ev s t) (hm : s.mode ≠ .v86) :
    t.ds = s.ds ∧ t.es = s.es ∧ t.fs = s.fs ∧ t.gs = s.gs := by
  obtain ⟨_, h⟩ | ⟨size, b, _, h⟩ | ⟨size, b, n, _, h⟩ | ⟨b, n, path, _⟩ := h
  · rw [h.others]; exact ⟨rfl, rfl, rfl, rfl⟩
  · rw [h.others]; exact ⟨rfl, rfl, rfl, rfl⟩
  · rw [h.others]; exact ⟨rfl, rfl, rfl, rfl⟩
  · exact absurd (mode_v86 path.gate.mode path.inV86) hm

/-- The three things an entry does to mode, privilege and SS: it keeps them all, it goes to an inner level of
Protected Mode, or it leaves Virtual 8086 Mode for level 0. -/
theorem level_cases (h : HandlerEntered ev s t) :
    (t.mode = s.mode ∧ s.mode ≠ .v86 ∧ t.privilege = s.privilege ∧ t.ss = s.ss) ∨
      (s.mode = .prot ∧ t.mode = .prot ∧ t.privilege < s.privilege) ∨
      (s.mode = .v86 ∧ t.mode = .prot ∧ t.privilege = 0#2) := by
  have htpe := h.pe
  obtain ⟨ready, h⟩ | ⟨size, b, path, h⟩ | ⟨size, b, n, path, h⟩ | ⟨b, n, path, h⟩ := h
  · have hpe := ready.mode
    rw [hpe] at htpe
    exact .inl ⟨by rw [mode_real hpe, mode_real htpe], by simp [mode_real hpe],
      by rw [privilege_real hpe, privilege_real htpe], by rw [h.others]⟩
  · have hpe := path.gate.mode
    have hv := path.notV86
    have htv := (h.flags.vmFlag_of_not_mem (vm_not_mem_gateFlags _)).trans hv
    rw [hpe] at htpe
    exact .inl ⟨by rw [mode_prot hpe hv, mode_prot htpe htv], by simp [mode_prot hpe hv],
      by rw [privilege_prot hpe hv, privilege_prot htpe htv, h.others], by rw [h.others]⟩
  · have hpe := path.gate.mode
    have hv := path.notV86
    have htv := (h.flags.vmFlag_of_not_mem (vm_not_mem_gateFlags _)).trans hv
    rw [hpe] at htpe
    refine .inr (.inl ⟨mode_prot hpe hv, mode_prot htpe htv, ?_⟩)
    rw [privilege_prot htpe htv, h.level]
    exact path.level
  · have hpe := path.gate.mode
    have htv := h.flags.vmFlag_of_mem (vm_mem_v86Flags _)
    rw [hpe] at htpe
    exact .inr (.inr ⟨mode_v86 hpe path.inV86, mode_prot htpe htv, by rw [privilege_prot htpe htv, h.level]⟩)

end HandlerEntered

theorem privilege_of_v86 {s : State} (h : s.mode = .v86) : s.privilege = 3#2 := by
  simp [State.privilege, h]

/-- SS changes only with the privilege level. -/
theorem HandlerEntered.ss_of_privilege {ev : Event} {s t : State} (h : HandlerEntered ev s t)
    (hp : t.privilege = s.privilege) : t.ss = s.ss := by
  obtain ⟨_, _, _, hss⟩ | ⟨_, _, hlt⟩ | ⟨hm, _, h0⟩ := h.level_cases
  · exact hss
  · exact absurd hlt (by rw [hp]; exact BitVec.lt_irrefl _)
  · rw [h0, privilege_of_v86 hm] at hp
    exact absurd hp (by decide)

/-! ### The bytes an entry pushes -/

section Bytes
variable {ev : Event} {s t : State} {size : GateSize} {b : Bool}

/-- The bytes through a gate, in the words of the paths' conditions. -/
theorem gateBytes_eq (ev : Event) (s : State) (size : GateSize) (b : Bool) :
    gateBytes ev s size = ((if s.vmFlag = true then 9
      else if Ar.isConforming (gateTarget s ev.vector size b).code.ar = false ∧
        Ar.dpl (gateTarget s ev.vector size b).code.ar < s.privilege then 5
      else 3) + (errorSlots ev).length) * size.bytes := rfl

theorem entryBytes_of_gateOpen (h : GateOpen ev s (GateKind.through size b)) :
    entryBytes ev s = gateBytes ev s size := by
  unfold entryBytes
  rw [h.kind]
  cases b <;> rfl

theorem SamePath.entryBytes (h : SamePath ev s size b) :
    entryBytes ev s = (3 + (errorSlots ev).length) * size.bytes := by
  rw [entryBytes_of_gateOpen h.gate, gateBytes_eq ev s size b, if_neg (by simp [h.notV86]), if_neg]
  rintro ⟨conf, below⟩
  obtain hc | heq := h.chosen
  · exact absurd (conf.symm.trans hc) (by decide)
  · exact absurd (heq ▸ below) (BitVec.lt_irrefl _)

theorem InnerPath.entryBytes {n : NewStack} (h : InnerPath ev s size b n) :
    entryBytes ev s = (5 + (errorSlots ev).length) * size.bytes := by
  rw [entryBytes_of_gateOpen h.gate, gateBytes_eq ev s size b, if_neg (by simp [h.notV86]),
    if_pos ⟨h.nonConforming, h.level⟩]

theorem V86Path.entryBytes {n : NewStack} (h : V86Path ev s b n) :
    entryBytes ev s = (9 + (errorSlots ev).length) * 4 := by
  rw [entryBytes_of_gateOpen h.gate, gateBytes_eq ev s .bits32 b, if_pos h.inV86, GateSize.bytes]

/-- In Protected Mode an entry stores the bytes of its pushes, from the new stack top upward, and no other. -/
theorem HandlerEntered.onlyStored (h : HandlerEntered ev s t) (hpe : s.pe = true) :
    OnlyStored s t t.stackLinear (Machine.entryBytes ev s) := by
  obtain ⟨ready, _⟩ | ⟨size, b, path, h⟩ | ⟨size, b, n, path, h⟩ | ⟨b, n, path, h⟩ := h
  · exact absurd (hpe.symm.trans ready.mode) (by decide)
  · rw [path.entryBytes]; exact h.memory
  · rw [path.entryBytes]; exact h.memory
  · rw [path.entryBytes]; exact h.memory

/-- In Real Address Mode an entry stores three words and no other byte. -/
theorem HandlerEntered.realStored (h : HandlerEntered ev s t) (hpe : s.pe = false) (a : Nat)
    (ha : ∀ k < 3, a ∉ span (t.realSlot k) 2) : t.byteAt a = s.byteAt a := by
  obtain ⟨_, h⟩ | ⟨size, b, path, _⟩ | ⟨size, b, n, path, _⟩ | ⟨b, n, path, _⟩ := h
  · exact h.memory a ha
  · exact absurd (hpe.symm.trans path.gate.mode) (by decide)
  · exact absurd (hpe.symm.trans path.gate.mode) (by decide)
  · exact absurd (hpe.symm.trans path.gate.mode) (by decide)

end Bytes

/-- Settles O40: an instruction that enters no handler changes EIP alone, and what an entry leaves unchanged is what
the four paths have in common. -/
theorem instructionFrame : Obligations.InstructionFrame := by
  intro i s t hn h hrun
  obtain ⟨hev, rfl⟩ | ⟨ev, hev, hh⟩ := exec_runs_on hn h hrun
  · exact ⟨rfl, rfl, rfl, rfl, rfl, rfl, rfl, fun _ _ _ _ _ => rfl, fun _ => rfl, fun _ => ⟨rfl, rfl, rfl, rfl⟩,
      fun _ => ⟨fun _ => rfl, rfl⟩, fun ev he => by simp [hev] at he⟩
  · obtain ⟨bits, hbits, hflags⟩ := hh.flags
    obtain ⟨hgpr, hpaging, hidtr, hgdtr, hldtr, htr⟩ := hh.kept
    refine ⟨hgpr, hh.pe, hpaging, hidtr, hgdtr, hldtr, htr, ?_, hh.ss_of_privilege, hh.dataSegments,
      fun he => by simp [hev] at he, ?_⟩
    · intro k htf hif hnt hvm
      exact hflags.getLsbD_of_not_mem fun hk => by simpa [htf, hif, hnt, hvm] using hbits hk
    · intro ev' he
      obtain rfl : ev = ev' := by simpa [hev] using he
      exact ⟨hh.onlyStored, hh.realStored⟩

/-- Settles O41: an untaken `INTO` keeps mode and level, and so does an entry, unless it goes to an inner level or
leaves Virtual 8086 Mode for level 0. -/
theorem privilegeAndModes : Obligations.PrivilegeAndModes := by
  intro i s t hn h hrun
  obtain ⟨_, rfl⟩ | ⟨ev, _, hh⟩ := exec_runs_on hn h hrun
  · exact ⟨BitVec.le_refl s.privilege, rfl, id, .inl⟩
  · obtain ⟨hm, hv, hp, _⟩ | ⟨hm, ht, hlt⟩ | ⟨hm, ht, h0⟩ := hh.level_cases
    · exact ⟨hp ▸ BitVec.le_refl _, hh.pe, fun h => hm ▸ h, fun h => absurd h hv⟩
    · exact ⟨BitVec.le_of_lt hlt, hh.pe, by simp [ht], by simp [hm]⟩
    · exact ⟨by rw [h0]; exact Nat.zero_le s.privilege.toNat, hh.pe, fun _ => hm, fun _ => .inr ⟨ht, h0⟩⟩

end Sys2Proof.Machine
end

section
/-! PROOFS. The seven general registers have no part in a delivery (rule R28): with other contents it ends in the same
way, in the state with those contents. -/

namespace Sys2Proof.Machine

/-- A delivery's end with other contents of the seven general registers; at a shutdown every register holds any value,
whatever it held before (rule R30). -/
def Delivery.withGpr (d : Delivery) (g : GeneralRegs) : Delivery :=
  match d with
  | .transferred t => .transferred (t.withGpr g)
  | .shutDown t => .shutDown t
  | .raised t e code => .raised (t.withGpr g) e code
  | .refused r => .refused r

section WithGpr
variable {ev : Event} {s : State} (g : GeneralRegs)

/-- Checks that pass or stop alike lead to ends that differ in the general registers alone. -/
theorem passing_withGpr {α : Type} {x : Except Stop α} {k k' : α → Delivery}
    (h : ∀ a, x = .ok a → k' a = (k a).withGpr g) : passing (s.withGpr g) x k' = (passing s x k).withGpr g := by
  rcases x with (⟨e, c⟩ | r) | a
  · rfl
  · rfl
  · exact h a rfl

/-- A choice between two deliveries is one between their ends. -/
theorem Delivery.withGpr_ite (p : Prop) [Decidable p] (d d' : Delivery) :
    (if p then d else d').withGpr g = if p then d.withGpr g else d'.withGpr g :=
  apply_ite (Delivery.withGpr · g) p d d'

theorem deliverReal_withGpr : deliverReal ev (s.withGpr g) = (deliverReal ev s).withGpr g := by
  simp only [deliverReal, Delivery.withGpr_ite, realTransfer_withGpr]
  rfl

theorem throughGate_withGpr (size : GateSize) (b : Bool) :
    throughGate ev (s.withGpr g) size b = (throughGate ev s size b).withGpr g := by
  simp only [throughGate, gateTarget_withGpr, codeChecks_withGpr, choosePath_withGpr, stackChecks_withGpr,
    v86Checks_withGpr, sameChecks_withGpr]
  refine passing_withGpr g fun _ _ => passing_withGpr g fun path _ => ?_
  cases path with
  | inner => exact passing_withGpr g fun n _ => congrArg Delivery.transferred (innerTransfer_withGpr ..)
  | fromV86 => exact passing_withGpr g fun n _ => congrArg Delivery.transferred (v86Transfer_withGpr ..)
  | same => exact passing_withGpr g fun _ _ => congrArg Delivery.transferred (sameTransfer_withGpr ..)

/-- Only a task gate, whose task switch may read them, could tell the general registers apart. -/
theorem deliverProtected_withGpr (hn : NoTaskGates s) (hpe : s.pe = true) :
    deliverProtected ev (s.withGpr g) = (deliverProtected ev s).withGpr g := by
  rw [deliverProtected, gateChecks_withGpr]
  refine passing_withGpr g fun kind hk => ?_
  cases kind with
  | taskGate => exact absurd hk (hn.gateChecks_ne hpe)
  | interruptGate size => exact throughGate_withGpr g size true
  | trapGate size => exact throughGate_withGpr g size false

theorem deliver_withGpr (hn : NoTaskGates s) : deliver ev (s.withGpr g) = (deliver ev s).withGpr g := by
  have hreal := deliverReal_withGpr (ev := ev) (s := s) g
  have hprot := deliverProtected_withGpr (ev := ev) g hn
  unfold deliver
  simp only [Delivery.withGpr_ite, ← hreal]
  by_cases hpe : s.pe = true
  · rw [← hprot hpe]
    rfl
  · have hpe' : s.pe = false := by simpa using hpe
    simp only [show (s.withGpr g).pe = false from hpe', hpe', if_true]
    rfl

end WithGpr

section Interrupts
variable {s t : State} (g : GeneralRegs)

/-- A running end of a delivery is a completed one. -/
theorem deliver_withGpr_of_runs_on {ev : Event} (hn : NoTaskGates s) (hrun : t.shutdown = false)
    (h : deliver ev s = .transferred t ∨ deliver ev s = .shutDown t) :
    deliver ev (s.withGpr g) = .transferred (t.withGpr g) := by
  rcases h with h | h
  · rw [deliver_withGpr g hn, h]
    rfl
  · obtain ⟨_, _, _, rfl⟩ := deliver_shutDown h
    cases hrun

theorem raiseException_of_transferred {e : Exc} {code : Word} {origin : State}
    (h : deliver (exceptionEvent e code origin) s = .transferred t) : raiseException e code origin s = .next t := by
  unfold raiseException
  rw [h]

theorem raiseException_withGpr {e : Exc} {code : Word} (hn : NoTaskGates s) (hrun : t.shutdown = false)
    (h : raiseException e code s s = .next t) :
    raiseException e code (s.withGpr g) (s.withGpr g) = .next (t.withGpr g) :=
  raiseException_of_transferred (deliver_withGpr_of_runs_on g hn hrun (raiseException_next h))

theorem interrupt_withGpr {ev : Event} (hn : NoTaskGates s) (hrun : t.shutdown = false)
    (h : interrupt ev s = .next t) : interrupt ev (s.withGpr g) = .next (t.withGpr g) := by
  rcases interrupt_next h with h | ⟨hnest, u, e, code, hraised, h⟩
  · exact interrupt_of_transferred (deliver_withGpr_of_runs_on g hn hrun h)
  · obtain ⟨_, rfl⟩ := deliver_raised_same hn hraised
    have hraised' : deliver ev (u.withGpr g) = .raised (u.withGpr g) e code := by
      rw [deliver_withGpr g hn, hraised]
      rfl
    rw [interrupt_of_raised hnest hraised']
    exact raiseException_of_transferred (deliver_withGpr_of_runs_on g hn hrun h)

theorem Runnable.withGpr {len : Nat} (h : Runnable s len) : Runnable (s.withGpr g) len :=
  ⟨h.running, h.noPaging, h.legalMode, h.noTrap, h.fits⟩

theorem interruptOf_withGpr (i : Instr) : interruptOf (s.withGpr g) i = interruptOf s i := by
  cases i <;> rfl

end Interrupts

/-- Settles O44, by the inversion of `exec`: the instruction's interrupt, the advance of EIP and the #GP(0) of rule
R86 are each the same with other contents of the general registers. -/
theorem generalRegistersDoNotMatter : Obligations.GeneralRegistersDoNotMatter := by
  intro i s t g hn h hrun
  change exec i (s.withGpr g) = .next (t.withGpr g)
  obtain ⟨hr, ⟨n, hi, h⟩ | ⟨rfl, hof, rfl⟩ | ⟨imm8, rfl, hm, hio, h⟩⟩ := exec_next h
  · rw [exec_of_interrupt (hr.withGpr g) ((interruptOf_withGpr g i).trans hi)]
    exact interrupt_withGpr g hn hrun h
  · have hof' : ¬ (s.withGpr g).overflowFlag = true := Bool.eq_false_iff.mp hof
    rw [exec_into (hr.withGpr g), if_neg hof']
    rfl
  · rw [exec_intImm8 (hr.withGpr g), if_pos ⟨hm, hio⟩]
    exact raiseException_withGpr g hn hrun h

end Sys2Proof.Machine
end

section
/-! PROOFS. The state after reset, shutdown and the refused states, the delivery of an external interrupt, and the
places of the flags. -/

namespace Sys2Proof.Machine

/-! ### Reset -/

/-- An empty memory without free bytes reads 0 everywhere (log entry 2). -/
theorem byteAt_of_empty {s : State} (hm : s.mem = []) (hf : s.free = []) (a : Nat) : s.byteAt a = 0#8 := by
  unfold State.byteAt
  rw [hf, hm]
  rfl

/-- Settles O4, component by component. -/
theorem resetState : Obligations.ResetState := by
  refine ⟨rfl, rfl, rfl, rfl, rfl, rfl, rfl, rfl, rfl, rfl, rfl, ?_, rfl, rfl, by decide, byteAt_of_empty rfl rfl⟩
  intro r hr
  obtain rfl : r = { selector := 0, inv := some (resetHidden 0) } := by simpa [State.reset] using hr
  exact ⟨rfl, _, rfl, rfl, rfl⟩

/-- Settles O5: the memory is empty, and the registers are those of Real Address Mode at level 0. -/
theorem resetMeetsInvariant : Obligations.ResetMeetsInvariant :=
  .of_parts ⟨by decide, by decide, by decide⟩ fun _ => by decide

/-! ### What keeps the processor from running -/

section Blocked
variable {s : State} {o : Host.Outcome State Fault Refusal}

theorem step_of_blocked (h : blocked s = some o) : step s = o := by
  simp only [step, h]

theorem execute_of_blocked (h : blocked s = some o) (len : Nat) (effect : Host.Outcome State Fault Refusal) :
    execute len s effect = o := by
  simp only [execute, h]

/-- Every instruction begins with the same front end. -/
theorem exec_of_blocked (h : blocked s = some o) (i : Instr) : exec i s = o := by
  cases i <;> exact execute_of_blocked h ..

theorem execute_of_wraps {len : Nat} {effect : Host.Outcome State Fault Refusal} (h : blocked s = none)
    (hf : ¬ s.NextFits len) : execute len s effect = .refused .instructionPointerWraps := by
  simp only [execute, h, if_neg hf]

theorem exec_of_wraps {i : Instr} (h : blocked s = none) (hf : ¬ s.NextFits i.length) :
    exec i s = .refused .instructionPointerWraps := by
  cases i <;> exact execute_of_wraps h hf

theorem blocked_of_shutdown (h : s.shutdown = true) : blocked s = some (.fault .shutdown) := if_pos h

theorem blocked_of_paging (hs : s.shutdown = false) (h : s.paging = true) :
    blocked s = some (.refused .pagingEnabled) := by
  simp [blocked, hs, h]

theorem blocked_of_illegalMode (hs : s.shutdown = false) (hp : s.paging = false) (h : s.IllegalMode) :
    blocked s = some (.refused .vm86WithoutProtection) := by
  simp [blocked, hs, hp, h]

theorem blocked_of_trapFlag (hs : s.shutdown = false) (hp : s.paging = false) (hm : ¬ s.IllegalMode)
    (h : s.trapFlag = true) : blocked s = some (.refused .trapFlagSet) := by
  unfold blocked
  rw [if_neg (by simp [hs]), if_neg (by simp [hp]), if_neg hm, if_pos h]

theorem not_illegalMode_iff : ¬ s.IllegalMode ↔ s.pe = true ∨ s.vmFlag = false := by
  rw [State.IllegalMode, not_and_or, Bool.not_eq_false, Bool.not_eq_true]

end Blocked

/-- Settles O11. -/
theorem shutdownIsFinal : Obligations.ShutdownIsFinal := by
  intro s h
  have hb := blocked_of_shutdown h
  exact ⟨step_of_blocked hb, exec_of_blocked hb, fun vector => if_pos h⟩

/-- Settles O12: what blocks the processor comes before the fetch and before every instruction's effect, and so does
the test of the successor's address. -/
theorem refusedStates : Obligations.RefusedStates := by
  intro s hs
  refine ⟨fun hp => ?_, fun hp hpe hv => ?_, fun hp hm ht => ?_, fun hp hm ht i hw => ?_⟩
  · have hb := blocked_of_paging hs hp
    exact ⟨step_of_blocked hb, exec_of_blocked hb⟩
  · have hb := blocked_of_illegalMode hs hp ⟨hpe, hv⟩
    exact ⟨step_of_blocked hb, exec_of_blocked hb⟩
  · have hb := blocked_of_trapFlag hs hp (not_illegalMode_iff.2 hm) ht
    exact ⟨step_of_blocked hb, exec_of_blocked hb⟩
  · exact exec_of_wraps (blocked_none.2 ⟨hs, hp, not_illegalMode_iff.2 hm, ht⟩) (Nat.not_le.2 hw)

/-! ### Shutdown in Real Address Mode -/

/-- SP = 1, 3 or 5 on a 16-bit stack shuts the processor down, whatever the event (rule R104). -/
theorem deliver_of_shutdownStack {ev : Event} {s : State} (hp : s.paging = false) (hm : ¬ s.IllegalMode)
    (hpe : s.pe = false) (hb : s.ss.inv.big = false) (hsp : ShutdownStack s) :
    deliver ev s = .shutDown s.enterShutdown := by
  rw [deliver_real hp hm hpe]
  exact deliverReal_shutDown.2 ⟨hb, hsp, rfl⟩

/-- Settles O20: the interrupt's delivery is the shutdown of rule R104, and the inversion of a shutdown gives the
converse. -/
theorem realModeShutdown : Obligations.RealModeShutdown := by
  constructor
  · intro i s n hr hi hpe hb hsp
    refine ⟨s.enterShutdown, ?_, rfl, step_of_blocked (blocked_of_shutdown rfl)⟩
    rw [exec_of_interrupt hr hi]
    exact interrupt_of_shutDown (deliver_of_shutdownStack hr.noPaging hr.legalMode hpe hb hsp)
  · intro ev s t h
    obtain ⟨hpe, _, hsp, _⟩ := deliver_shutDown h
    exact ⟨hpe, hsp⟩

/-! ### External interrupts -/

/-- Settles O45. -/
theorem externalInterruptDelivery : Obligations.ExternalInterruptDelivery := by
  intro vector s hs
  have hrun : ¬ s.shutdown = true := by simp [hs]
  constructor
  · intro hif
    have hmasked : ¬ s.interruptFlag = true := Bool.eq_false_iff.mp hif
    rw [externalInterrupt, if_neg hrun, if_neg hmasked]
  · intro hif
    have henabled : s.interruptFlag = true := hif
    rw [externalInterrupt, if_neg hrun, if_pos henabled]
    rfl

/-! ### Flags and modes -/

theorem toNat_two_bits : ∀ x : BitVec 2,
    x.toNat = (if x.getLsbD 1 = true then 2 else 0) + (if x.getLsbD 0 = true then 1 else 0) := by decide

/-- A field of two bits as a number. -/
theorem toNat_extractLsb'_two (f : DWord) (n : Nat) :
    (f.extractLsb' n 2).toNat =
      (if f.getLsbD (n + 1) = true then 2 else 0) + (if f.getLsbD n = true then 1 else 0) := by
  rw [toNat_two_bits]
  simp

theorem mode_eq_real_iff {s : State} : s.mode = .real ↔ s.pe = false := by
  cases hp : s.pe <;> cases hv : s.vmFlag <;> simp [State.mode, hp, hv]

theorem mode_eq_prot_iff {s : State} : s.mode = .prot ↔ s.pe = true ∧ s.vmFlag = false := by
  cases hp : s.pe <;> cases hv : s.vmFlag <;> simp [State.mode, hp, hv]

/-- Rule R24, with the mode written out (rule R19). -/
theorem privilege_eq (s : State) :
    s.privilege = if s.pe = false then 0#2 else if s.vmFlag = true then 3#2 else s.cpl := by
  cases hp : s.pe with
  | false => simp [privilege_real hp]
  | true =>
    cases hv : s.vmFlag with
    | false => simp [privilege_prot hp hv]
    | true => simp [privilege_v86 hp hv]

/-- Settles O56: the flags stand where the accessors read them, and mode and level follow from PE and VM. -/
theorem flagsAndModes : Obligations.FlagsAndModes := by
  intro s
  exact ⟨rfl, rfl, rfl, rfl, rfl, toNat_extractLsb'_two .., mode_eq_real_iff, mode_eq_v86_iff, mode_eq_prot_iff,
    Iff.rfl, privilege_eq s⟩

end Sys2Proof.Machine
end

section
/-! PROOFS. Memory is little-endian, a push stores at the new stack top, and the list of pushed addresses remembers
every byte that an instruction changed. -/

namespace Sys2Proof.Machine

/-! ### The bytes of a word, a doubleword and a descriptor -/

/-- A word below a word, byte by byte. -/
theorem word_append_word (x : Word) (b a : Byte) : x ++ (b ++ a) = x ++ b ++ a := BitVec.append_assoc.symm

/-- A doubleword below a doubleword, byte by byte. -/
theorem dword_append_dword (x : DWord) (d c b a : Byte) : x ++ (d ++ c ++ b ++ a) = x ++ d ++ c ++ b ++ a :=
  calc x ++ (d ++ c ++ b ++ a) = x ++ (d ++ c ++ b) ++ a := BitVec.append_assoc.symm
    _ = x ++ (d ++ c) ++ b ++ a := congrArg (· ++ a) BitVec.append_assoc.symm
    _ = x ++ d ++ c ++ b ++ a := congrArg (· ++ b ++ a) BitVec.append_assoc.symm

namespace State

theorem read16_bytes (s : State) (lin : DWord) :
    s.read16 lin = s.byteAt (lin + 1#32).toNat ++ s.byteAt lin.toNat := rfl

theorem read32_bytes (s : State) (lin : DWord) :
    s.read32 lin = s.byteAt (lin + 3#32).toNat ++ s.byteAt (lin + 2#32).toNat ++
      s.byteAt (lin + 1#32).toNat ++ s.byteAt lin.toNat := by
  have h3 : lin + 2#32 + 1#32 = lin + 3#32 := BitVec.add_assoc ..
  rw [← h3]
  exact word_append_word ..

theorem read64_bytes (s : State) (lin : DWord) :
    s.read64 lin = s.byteAt (lin + 7#32).toNat ++ s.byteAt (lin + 6#32).toNat ++
      s.byteAt (lin + 5#32).toNat ++ s.byteAt (lin + 4#32).toNat ++ s.byteAt (lin + 3#32).toNat ++
      s.byteAt (lin + 2#32).toNat ++ s.byteAt (lin + 1#32).toNat ++ s.byteAt lin.toNat := by
  have h5 : lin + 4#32 + 1#32 = lin + 5#32 := BitVec.add_assoc ..
  have h6 : lin + 4#32 + 2#32 = lin + 6#32 := BitVec.add_assoc ..
  have h7 : lin + 4#32 + 3#32 = lin + 7#32 := BitVec.add_assoc ..
  rw [← h5, ← h6, ← h7, ← dword_append_dword, ← read32_bytes, ← read32_bytes]
  rfl

end State

/-- The canonical form of memory does not ask for that of the pushed addresses: with none, it is the whole of
`MemLegal`. -/
theorem memLegal_withoutPushed {s : State} (hm : Memory.wf s.mem) (hf : s.FreeWf) :
    MemLegal { s with pushed := [] } :=
  ⟨hm, hf, List.Pairwise.nil, nofun⟩

/-- Settles O47: reads by their bytes, and the laws of the stores. -/
theorem memoryIsLittleEndian : Obligations.MemoryIsLittleEndian := by
  intro s lin v w
  refine ⟨s.read16_bytes lin, s.read32_bytes lin, s.read64_bytes lin, s.read16_store16 lin v,
    fun _ => s.byteAt_store16_outside lin v, s.read32_store32 lin w, fun _ => s.byteAt_store32_outside lin w,
    fun hm hf => ?_⟩
  have hlegal := memLegal_withoutPushed hm hf
  exact ⟨⟨(hlegal.store16 lin v).mem, (hlegal.store16 lin v).free⟩,
    (hlegal.store32 lin w).mem, (hlegal.store32 lin w).free⟩

/-! ### Pushes -/

namespace State

theorem stackWide_iff (s : State) :
    s.stackWide = true ↔ (s.pe = true ∧ s.vmFlag = false) ∧ s.ss.inv.big = true := by
  rw [← mode_eq_prot_iff]
  unfold stackWide
  cases s.mode <;> simp

theorem stackLinear_prot {s : State} (h : s.mode = .prot) : s.stackLinear =
    s.ss.inv.base + if s.ss.inv.big = true then s.esp else (s.esp.setWidth 16).setWidth 32 := by
  simp only [stackLinear, stackBase, stackOffset, stackWide, h]
  rfl

theorem stackLinear_not_prot {s : State} (h : s.mode ≠ .prot) :
    s.stackLinear = s.ss.selector.setWidth 32 * 16#32 + (s.esp.setWidth 16).setWidth 32 := by
  unfold stackLinear stackBase stackOffset stackWide
  cases hm : s.mode with
  | prot => exact absurd hm h
  | real => rfl
  | v86 => rfl

/-- The two padding bytes stand above the word (rule R46). -/
theorem read16_pushPadded_high (s : State) (v : Word) :
    (s.pushPadded v).read16 ((s.pushPadded v).stackLinear + 2#32) =
      Config.freeByte (s.draws + 1) ++ Config.freeByte s.draws :=
  read16_storePadded_high (s.lowerStack 4) _ v

end State

/-- Settles O46: where the stack top is, by mode, and what each of the three pushes stores there. -/
theorem pushStoresAtTheNewTop : Obligations.PushStoresAtTheNewTop := by
  intro s v w
  refine ⟨s.stackWide_iff, fun h => State.stackLinear_prot (mode_eq_prot_iff.2 h),
    fun h => State.stackLinear_not_prot (mt mode_eq_prot_iff.1 h), ⟨?_, s.read16_push16 v⟩, ⟨?_, s.read32_push32 w⟩,
    ?_, s.read16_pushPadded v, s.read16_pushPadded_high v⟩
  · exact ⟨rfl, s.onlyStored_push16 v, rfl, rfl⟩
  · exact ⟨rfl, s.onlyStored_push32 w, rfl, rfl⟩
  · exact ⟨rfl, s.onlyStored_pushPadded v, rfl, rfl⟩

/-! ### What the list of pushed addresses remembers -/

section Remembered
variable {ev : Event} {s t : State}

theorem GateTransfer.remembers {size : GateSize} {b : Bool} (h : GateTransfer ev s t size b) :
    Remembers s t := by
  cases h with
  | inner n _ _ _ _ result => exact result ▸ .innerTransfer ..
  | fromV86 n _ _ _ _ _ _ _ result => exact result ▸ .v86Transfer ..
  | same _ _ _ _ _ _ _ result => exact result ▸ .sameTransfer ..

theorem inTask_kept (ev : Event) (u : State) : ∀ a ∈ u.pushed, a ∈ (inTask ev u).pushed := by
  unfold inTask
  split
  · exact fun _ h => h
  · exact ((Remembers.refl u).push16 _).kept

/-- No completed delivery forgets an address, one through a task gate included (log entry 12). -/
theorem Transferred.kept (h : Transferred ev s t) : ∀ a ∈ s.pushed, a ∈ t.pushed := by
  cases h with
  | real _ _ _ _ result => exact result ▸ (Remembers.realTransfer ev s).kept
  | gate _ _ _ _ _ path => exact path.remembers.kept
  | task u _ _ switched result => exact result ▸ switched.pushed ▸ inTask_kept ev u

theorem Transferred.remembers (hn : NoTaskGates s) (h : Transferred ev s t) : Remembers s t := by
  cases h with
  | real _ _ _ _ result => exact result ▸ .realTransfer ..
  | gate _ _ _ _ _ path => exact path.remembers
  | task u mode kind => exact absurd kind (hn.gateChecks_ne mode)

theorem deliver_ends_kept (h : deliver ev s = .transferred t ∨ deliver ev s = .shutDown t) :
    ∀ a ∈ s.pushed, a ∈ t.pushed := by
  obtain h | h := h
  · exact (deliver_transferred h).2.2.kept
  · obtain ⟨_, _, _, rfl⟩ := deliver_shutDown h
    exact fun _ h => h

theorem deliver_raised_kept {e : Exc} {c : Word} (h : deliver ev s = .raised t e c) :
    ∀ a ∈ s.pushed, a ∈ t.pushed := by
  obtain ⟨_, _, rfl | ⟨_, u, switched, rfl | rfl⟩⟩ := deliver_raised h
  · exact fun _ h => h
  · exact switched.pushed ▸ fun _ h => h
  · exact switched.pushed ▸ inTask_kept ev u

/-- A delivery after which the processor runs on has completed. -/
theorem deliver_ends_remembers (hn : NoTaskGates s) (hrun : t.shutdown = false)
    (h : deliver ev s = .transferred t ∨ deliver ev s = .shutDown t) : Remembers s t := by
  obtain h | h := h
  · exact (deliver_transferred h).2.2.remembers hn
  · obtain ⟨_, _, _, rfl⟩ := deliver_shutDown h
    cases hrun

end Remembered

/-- An instruction ends by advancing EIP alone, or with the end of a delivery that began in its own state or in the
state in which an earlier delivery raised. -/
theorem exec_ends {i : Instr} {s t : State} (h : exec i s = .next t) :
    t = { s with eip := s.nextEip 1 } ∨
      ∃ ev u, (u = s ∨ ∃ ev' e c, deliver ev' s = .raised u e c) ∧
        (deliver ev u = .transferred t ∨ deliver ev u = .shutDown t) := by
  obtain ⟨_, ⟨n, _, h⟩ | ⟨_, _, rfl⟩ | ⟨imm8, _, _, _, h⟩⟩ := exec_next h
  · obtain h | ⟨_, u, e, c, hraised, h⟩ := interrupt_next h
    · exact .inr ⟨_, s, .inl rfl, h⟩
    · exact .inr ⟨_, u, .inr ⟨_, e, c, hraised⟩, h⟩
  · exact .inl rfl
  · exact .inr ⟨_, s, .inl rfl, raiseException_next h⟩

/-- Settles O43, from the two ways in which an instruction ends: advancing EIP stores nothing, and every delivery
remembers what it stored and forgets nothing. -/
theorem changedBytesAreRemembered : Obligations.ChangedBytesAreRemembered := by
  intro i s t h
  obtain rfl | ⟨ev, u, hu, hends⟩ := exec_ends h
  · exact ⟨fun _ _ _ hchanged => absurd rfl hchanged, fun _ ha => ha⟩
  · constructor
    · intro hn hrun
      have hus : u = s := hu.elim id fun ⟨_, _, _, hraised⟩ => (deliver_raised_same hn hraised).2
      subst hus
      exact (deliver_ends_remembers hn hrun hends).changed
    · have hkept : ∀ a ∈ s.pushed, a ∈ u.pushed := by
        obtain rfl | ⟨_, _, _, hraised⟩ := hu
        · exact fun _ ha => ha
        · exact deliver_raised_kept hraised
      exact fun a ha => deliver_ends_kept hends a (hkept a ha)

end Sys2Proof.Machine
end

section
/-! PROOFS. The fetch and the step: when the fetch answers the decoded instruction, when it stops, and what placing an
opcode-table word at CS:EIP does. -/

namespace Sys2Proof.Machine

/-! ### The fetch -/

section Fetch
variable {s : State}

theorem fetchLinear_zero (s : State) : s.fetchLinear 0 = s.codeBase + s.eip :=
  congrArg (s.codeBase + ·) (BitVec.add_zero s.eip)

theorem fetchBytes_eq (s : State) :
    s.fetchBytes = [s.read8 (s.codeBase + s.eip), s.read8 (s.codeBase + (s.eip + 1#32))] := by
  rw [State.fetchBytes, fetchLinear_zero]
  rfl

theorem fetchInstr_of_firstBeyond (h : ¬ s.FetchInLimit 1) : fetchInstr s = .error .fetchBeyondLimit := if_pos h

/-- The bytes of a decoded instruction reach beyond the limit, with its first byte or with a later one. -/
theorem fetchInstr_of_beyond {i : Instr} {rest : List Byte} (hd : decode s.fetchBytes = .ok (i, rest))
    (h : ¬ s.FetchInLimit i.length) : fetchInstr s = .error .fetchBeyondLimit := by
  by_cases h1 : s.FetchInLimit 1
  · simp only [fetchInstr, h1, hd, h, not_true, not_false_iff, if_false, if_true]
  · exact fetchInstr_of_firstBeyond h1

theorem fetchInstr_of_pushed {i : Instr} {rest : List Byte} (hd : decode s.fetchBytes = .ok (i, rest))
    (hf : s.FetchInLimit i.length) (hp : ¬ s.FetchNotPushed i.length) :
    fetchInstr s = .error .executesPushedBytes := by
  have h1 := fetchInLimit_one (Instr.length_pos i) hf
  simp only [fetchInstr, h1, hd, hf, not_true, if_false]
  exact if_pos hp

theorem step_of_fetch_error {r : Refusal} (hb : blocked s = none) (h : fetchInstr s = .error r) :
    step s = .refused r := by
  simp only [step, hb, h]

end Fetch

/-- Settles O8: the fetch answers the decoded instruction, and nothing blocks the step. -/
theorem stepRunsDecodedInstruction : Obligations.StepRunsDecodedInstruction := by
  intro s i rest hs hp hm ht hd hf hpushed
  rw [← fetchBytes_eq] at hd
  exact step_of_fetch (blocked_none.2 ⟨hs, hp, hm, ht⟩) (fetchInstr_ok hd hf hpushed)

/-- Settles O9, by the three ways in which the fetch of a known opcode stops. -/
theorem fetchStops : Obligations.FetchStops := by
  intro s hs hp hm ht
  have hb := blocked_none.2 ⟨hs, hp, hm, ht⟩
  exact ⟨fun h1 => step_of_fetch_error hb (fetchInstr_of_firstBeyond h1), fun i rest hd =>
    ⟨fun hf => step_of_fetch_error hb (fetchInstr_of_beyond hd hf),
      fun hf hpushed => step_of_fetch_error hb (fetchInstr_of_pushed hd hf hpushed)⟩⟩

/-! ### A placed word -/

section Placed
variable (s : State) (nbits w : Nat)

/-- The two addresses of the bytes at CS:EIP. -/
theorem mem_span_fetch {a : Nat} : a ∈ span (s.codeBase + s.eip) 2 ↔
    a = (s.fetchLinear 0).toNat ∨ a = (s.fetchLinear 1).toNat := by
  have h1 : s.fetchLinear 1 = s.codeBase + s.eip + 1#32 := (BitVec.add_assoc ..).symm
  rw [fetchLinear_zero, h1]
  simp [span, List.range_succ]

/-- Placing a word writes memory and the model's own records, and no register. -/
theorem withFetchWord_registers :
    ∃ m f p, s.withFetchWord nbits w = { s with mem := m, free := f, pushed := p } :=
  ⟨_, _, _, withFetchWord_eq s nbits w⟩

theorem withFetchWord_others : s.withFetchWord nbits w = { s with
    mem := (s.withFetchWord nbits w).mem, free := (s.withFetchWord nbits w).free,
    pushed := (s.withFetchWord nbits w).pushed } := by
  obtain ⟨m, f, p, h⟩ := withFetchWord_registers s nbits w
  rw [h]

theorem blocked_withFetchWord : blocked (s.withFetchWord nbits w) = blocked s := by
  obtain ⟨m, f, p, h⟩ := withFetchWord_registers s nbits w
  rw [h]
  rfl

theorem fetchLinear_withFetchWord (k : Nat) : (s.withFetchWord nbits w).fetchLinear k = s.fetchLinear k := by
  obtain ⟨m, f, p, h⟩ := withFetchWord_registers s nbits w
  rw [h]
  rfl

theorem fetchInLimit_withFetchWord (n : Nat) : (s.withFetchWord nbits w).FetchInLimit n ↔ s.FetchInLimit n := by
  obtain ⟨m, f, p, h⟩ := withFetchWord_registers s nbits w
  rw [h]

theorem byteAt_withFetchWord (a : Nat) : (s.withFetchWord nbits w).byteAt a =
    if a = (s.fetchLinear 1).toNat then BitVec.ofNat 8 (w % 2 ^ nbits / 256)
    else if a = (s.fetchLinear 0).toNat then BitVec.ofNat 8 (w % 2 ^ nbits) else s.byteAt a := by
  rw [withFetchWord_eq, ← State.byteAt_setByte, ← State.byteAt_setByte]
  exact State.byteAt_congr rfl rfl a

/-- The fetch reads the placed word. -/
theorem fetchBytes_withFetchWord : (s.withFetchWord nbits w).fetchBytes = tableBytes nbits w := by
  unfold State.fetchBytes State.read8
  rw [fetchLinear_withFetchWord, fetchLinear_withFetchWord, byteAt_withFetchWord, if_neg (fetchLinear_ne s),
    if_pos rfl, byteAt_withFetchWord, if_pos rfl, tableBytes]

theorem mem_pushed_withFetchWord {a : Nat} : a ∈ (s.withFetchWord nbits w).pushed ↔
    a ∈ s.pushed ∧ a ∉ span (s.codeBase + s.eip) 2 := by
  simp only [withFetchWord_eq, mem_span_fetch, List.mem_filter, decide_eq_true_eq, ne_eq, not_or, and_assoc]

/-- No byte of an instruction at CS:EIP counts as pushed once a word was placed there. -/
theorem fetchNotPushed_withFetchWord {n : Nat} (hn : n ≤ 2) : (s.withFetchWord nbits w).FetchNotPushed n := by
  intro k hk hmem
  rw [fetchLinear_withFetchWord] at hmem
  refine ((mem_pushed_withFetchWord s nbits w).1 hmem).2 ((mem_span_fetch s).2 ?_)
  obtain rfl | rfl : k = 0 ∨ k = 1 := by omega
  · exact .inl rfl
  · exact .inr rfl

end Placed

theorem decode_of_decodeTableWord {nbits w : Nat} {i : Instr} (h : decodeTableWord nbits w = some i) :
    ∃ rest, decode (tableBytes nbits w) = .ok (i, rest) := by
  unfold decodeTableWord at h
  split at h
  · rename_i j rest hd
    cases h
    exact ⟨rest, hd⟩
  · cases h

/-- Settles O10: the placed bytes are fetched and are not pushed ones, and nothing else was written. -/
theorem placedWordRuns : Obligations.PlacedWordRuns := by
  intro s nbits w i hw
  obtain ⟨rest, hd⟩ := decode_of_decodeTableWord hw
  refine ⟨fun hs hp hm ht hf => ?_, fun a ha => ?_, fun a => mem_pushed_withFetchWord s nbits w,
    withFetchWord_others ..⟩
  · have hblocked := (blocked_withFetchWord s nbits w).trans (blocked_none.2 ⟨hs, hp, hm, ht⟩)
    rw [← fetchBytes_withFetchWord s] at hd
    rw [← fetchInLimit_withFetchWord s nbits w] at hf
    exact step_of_fetch hblocked (fetchInstr_ok hd hf (fetchNotPushed_withFetchWord s nbits w (Instr.length_le i)))
  · rw [mem_span_fetch, not_or] at ha
    rw [byteAt_withFetchWord, if_neg ha.2, if_neg ha.1]

end Sys2Proof.Machine
end

section
/-! PROOFS. The layouts of gates and segment descriptors, where the tables and the TSS fields lie, the bounds of
segments and stacks, and the code segment by mode. -/

namespace Sys2Proof.Machine

/-! ### Gates (rule R51) -/

/-- The eight bytes of a gate with the given fields, from bit 63 down to bit 0. -/
def gateOfFields (offsetHigh : Word) (ar unused : Byte) (selector offsetLow : Word) : QWord :=
  offsetHigh ++ ar ++ unused ++ selector ++ offsetLow

section Gate
variable (oh : Word) (ar u : Byte) (sel ol : Word)

theorem gateSelector_gateOfFields : gateSelector (gateOfFields oh ar u sel ol) = sel := by
  rw [gateSelector, gateOfFields, BitVec.extractLsb'_append_eq_of_le (by decide), BitVec.extractLsb'_append_eq_right]

theorem descriptorAr_gateOfFields : descriptorAr (gateOfFields oh ar u sel ol) = ar := by
  rw [descriptorAr, gateOfFields]
  iterate 3 rw [BitVec.extractLsb'_append_eq_of_le (by decide)]
  exact BitVec.extractLsb'_append_eq_right

theorem gateOffset16_gateOfFields : gateOffset .bits16 (gateOfFields oh ar u sel ol) = ol.setWidth 32 :=
  congrArg (BitVec.setWidth 32) BitVec.extractLsb'_append_eq_right

theorem gateOffset32_gateOfFields : gateOffset .bits32 (gateOfFields oh ar u sel ol) = oh ++ ol := by
  have hlow : (gateOfFields oh ar u sel ol).extractLsb' 0 16 = ol := BitVec.extractLsb'_append_eq_right
  have hhigh : (gateOfFields oh ar u sel ol).extractLsb' 48 16 = oh := by
    rw [gateOfFields]
    iterate 3 rw [BitVec.extractLsb'_append_eq_of_le (by decide)]
    exact BitVec.extractLsb'_append_eq_left
  rw [gateOffset, hlow, hhigh]

end Gate

/-! ### Segment descriptors (rule R52) -/

/-- The eight bytes of a segment descriptor with the given fields, from bit 63 down to bit 0. -/
def segmentOfFields (baseHigh : Byte) (granular big zero avl : BitVec 1) (limitHigh : BitVec 4) (ar : Byte)
    (baseLow : BitVec 24) (limitLow : Word) : QWord :=
  baseHigh ++ granular ++ big ++ zero ++ avl ++ limitHigh ++ ar ++ baseLow ++ limitLow

section Segment
variable (bh : Byte) (g b z a : BitVec 1) (lh : BitVec 4) (ar : Byte) (bl : BitVec 24) (ll : Word)

theorem segment_base_segmentOfFields :
    (segmentDescriptor (segmentOfFields bh g b z a lh ar bl ll)).base = bh ++ bl := by
  have hlow : (segmentOfFields bh g b z a lh ar bl ll).extractLsb' 16 24 = bl := by
    rw [segmentOfFields, BitVec.extractLsb'_append_eq_of_le (by decide)]
    exact BitVec.extractLsb'_append_eq_right
  have hhigh : (segmentOfFields bh g b z a lh ar bl ll).extractLsb' 56 8 = bh := by
    rw [segmentOfFields]
    iterate 7 rw [BitVec.extractLsb'_append_eq_of_le (by decide)]
    exact BitVec.extractLsb'_append_eq_left
  rw [segmentDescriptor, hlow, hhigh]

theorem descriptorAr_segmentOfFields : descriptorAr (segmentOfFields bh g b z a lh ar bl ll) = ar := by
  rw [descriptorAr, segmentOfFields]
  iterate 2 rw [BitVec.extractLsb'_append_eq_of_le (by decide)]
  exact BitVec.extractLsb'_append_eq_right

/-- Bits 54 and 55 lie above the fields from AVL down. -/
theorem getLsbD_segmentOfFields {n : Nat} (hn : 54 ≤ n) :
    (segmentOfFields bh g b z a lh ar bl ll).getLsbD n = (bh ++ g ++ b).getLsbD (n - 54) := by
  rw [segmentOfFields]
  iterate 6 rw [BitVec.getLsbD_append, if_neg (by omega)]
  simp only [Nat.sub_sub, Nat.reduceAdd]

theorem big_segmentOfFields : (segmentOfFields bh g b z a lh ar bl ll).getLsbD 54 = b.getLsbD 0 := by
  rw [getLsbD_segmentOfFields _ _ _ _ _ _ _ _ _ (by decide), BitVec.getLsbD_append]
  rfl

theorem granular_segmentOfFields : (segmentOfFields bh g b z a lh ar bl ll).getLsbD 55 = g.getLsbD 0 := by
  rw [getLsbD_segmentOfFields _ _ _ _ _ _ _ _ _ (by decide), BitVec.getLsbD_append, BitVec.getLsbD_append]
  rfl

/-- `limit_eff` of rule R52, in bytes. -/
theorem toNat_effectiveLimit (limit : BitVec 20) (granular : Bool) : (effectiveLimit limit granular).toNat =
    if granular = true then limit.toNat * 4096 + 4095 else limit.toNat := by
  cases granular with
  | false =>
    show (limit.setWidth 32).toNat = limit.toNat
    exact BitVec.toNat_setWidth_of_le (by decide)
  | true =>
    show (limit ++ 0xFFF#12).toNat = limit.toNat * 2 ^ 12 + (0xFFF#12).toNat
    rw [BitVec.toNat_append, ← Nat.shiftLeft_add_eq_or_of_lt (0xFFF#12).isLt, Nat.shiftLeft_eq]

theorem segment_limit_segmentOfFields :
    (segmentDescriptor (segmentOfFields bh g b z a lh ar bl ll)).limit.toNat =
      if g = 1#1 then (lh ++ ll).toNat * 4096 + 4095 else (lh ++ ll).toNat := by
  have hlow : (segmentOfFields bh g b z a lh ar bl ll).extractLsb' 0 16 = ll := BitVec.extractLsb'_append_eq_right
  have hhigh : (segmentOfFields bh g b z a lh ar bl ll).extractLsb' 48 4 = lh := by
    rw [segmentOfFields]
    iterate 3 rw [BitVec.extractLsb'_append_eq_of_le (by decide)]
    exact BitVec.extractLsb'_append_eq_right
  rw [segmentDescriptor, hlow, hhigh, granular_segmentOfFields, toNat_effectiveLimit]
  simp only [bit_set_iff]

end Segment

/-- Settles O49, field by field: the eight bytes are the ones that `gateOfFields` and `segmentOfFields` make. -/
theorem descriptorLayouts : Obligations.DescriptorLayouts := by
  constructor
  · intro offsetHigh selector offsetLow ar unused
    exact ⟨gateSelector_gateOfFields .., descriptorAr_gateOfFields .., gateOffset32_gateOfFields ..,
      gateOffset16_gateOfFields ..⟩
  · intro baseHigh ar granular big zero avl limitHigh baseLow limitLow
    exact ⟨segment_base_segmentOfFields .., descriptorAr_segmentOfFields .., big_segmentOfFields ..,
      segment_limit_segmentOfFields ..⟩

/-! ### The codes of the gates (rule R51) -/

/-- The kind that a code of five bits stands for. -/
def gateKindOfCode (code : BitVec 5) : Option GateKind :=
  if code = 0b00101#5 then some .taskGate
  else if code = 0b00110#5 then some (.interruptGate .bits16)
  else if code = 0b00111#5 then some (.trapGate .bits16)
  else if code = 0b01110#5 then some (.interruptGate .bits32)
  else if code = 0b01111#5 then some (.trapGate .bits32)
  else none

theorem gateKind_eq (ar : Byte) : gateKind ar = gateKindOfCode (ar.extractLsb' 0 5) := rfl

/-- Settles O51, by going through the codes of five bits. -/
theorem gateCodes : Obligations.GateCodes := by
  intro ar
  simp only [gateKind_eq]
  generalize ar.extractLsb' 0 5 = code
  revert code
  decide

/-! ### Tables and the TSS (rules R47, R50, R53) -/

/-- Settles O53: the model's tables are the rules' own words. -/
theorem tablesInMemory : Obligations.TablesInMemory := by
  intro s vector selector size b
  exact ⟨rfl, Iff.rfl, Iff.rfl, rfl, rfl⟩

/-- Settles O54, for a 386 TSS and for a 286 TSS. -/
theorem tssStackPairs : Obligations.TssStackPairs := by
  intro s
  constructor
  · intro h
    simp [State.InTss, State.tssStackPointer, State.tssStackSelector, State.tssStackEnd, h]
  · intro h
    simp [State.InTss, State.tssStackPointer, State.tssStackSelector, State.tssStackEnd, h]

/-! ### Bounds (rules R52, R54) -/

section Bounds
variable {h : Hidden}

theorem inSegment_up {off n : Nat} (hn : 0 < n) (hup : Ar.isExpandDown h.ar = false) :
    InSegment h off n ↔ off + n ≤ h.limit.toNat + 1 := by
  rw [InSegment, if_neg (by simp [hup])]
  omega

theorem inSegment_down {off n : Nat} (hn : 0 < n) (hdown : Ar.isExpandDown h.ar = true) :
    InSegment h off n ↔ h.limit.toNat < off ∧ off + n ≤ if h.big = true then 2 ^ 32 else 2 ^ 16 := by
  rw [InSegment, if_pos hdown, segmentTop]
  split <;> omega

/-- `top` of rule R54 in the integers: the byte below the stack pointer, modulo the stack's size. -/
theorem roomTop_eq (wide : Bool) (sp : DWord) :
    (roomTop wide sp : Int) = ((sp.toNat : Int) - 1) % (if wide = true then 2 ^ 32 else 2 ^ 16) := by
  have hsp := sp.isLt
  unfold roomTop
  cases wide with
  | true =>
    simp only [if_true, BitVec.toNat_sub, BitVec.toNat_ofNat]
    omega
  | false =>
    simp only [Bool.false_eq_true, if_false, BitVec.toNat_sub, BitVec.toNat_ofNat, BitVec.toNat_setWidth]
    omega

variable {wide : Bool} {sp : DWord} {n : Nat}

theorem roomNotWrapping_iff : RoomNotWrapping wide sp n ↔ 0 ≤ (roomTop wide sp : Int) - n + 1 := by
  rw [RoomNotWrapping]
  omega

theorem stackRoom_up (hup : Ar.isExpandDown h.ar = false) :
    StackRoom h wide sp n ↔ (roomTop wide sp : Int) ≤ h.limit.toNat := by
  rw [StackRoom, if_neg (by simp [hup])]
  omega

theorem stackRoom_down (hdown : Ar.isExpandDown h.ar = true) (hw : RoomNotWrapping wide sp n) :
    StackRoom h wide sp n ↔ (h.limit.toNat : Int) < (roomTop wide sp : Int) - n + 1 := by
  rw [RoomNotWrapping] at hw
  rw [StackRoom, if_pos hdown]
  omega

end Bounds

/-- Settles O55: `top` is `roomTop`, and each test is the model's in unbounded numbers. -/
theorem segmentAndStackBounds : Obligations.SegmentAndStackBounds := by
  refine ⟨fun h off n hn => ⟨inSegment_up hn, inSegment_down hn⟩, fun h wide sp n => ?_⟩
  simp only [← roomTop_eq]
  exact ⟨roomNotWrapping_iff, fun _ => stackRoom_up,
    fun hbot hdown => stackRoom_down hdown (roomNotWrapping_iff.2 hbot)⟩

/-! ### The code segment (rules R44, R45, R85) -/

section Code
variable {s : State}

theorem codeBase_prot (h : s.mode = .prot) : s.codeBase = s.cs.inv.base := by
  rw [State.codeBase, h]

theorem codeBase_not_prot (h : s.mode ≠ .prot) : s.codeBase = s.cs.selector.setWidth 32 * 16#32 := by
  unfold State.codeBase
  cases hm : s.mode with
  | prot => exact absurd hm h
  | real => rfl
  | v86 => rfl

theorem codeTop_eq (s : State) :
    s.codeTop = if s.mode = .prot ∧ s.cs.inv.big = true then 0xFFFFFFFF else 0xFFFF := by
  unfold State.codeTop
  cases s.mode <;> simp

end Code

/-- Settles O57, by the mode. -/
theorem codeSegmentByMode : Obligations.CodeSegmentByMode := by
  intro s n
  have htop := codeTop_eq s
  simp only [mode_eq_prot_iff, and_assoc] at htop
  exact ⟨fun h => codeBase_prot (mode_eq_prot_iff.2 h), fun h => codeBase_not_prot (mt mode_eq_prot_iff.1 h),
    fun h => htop.trans (if_pos h), fun h => htop.trans (if_neg h), Iff.rfl, Iff.rfl⟩

end Sys2Proof.Machine
end

section
/-! PROOFS. The delivery through an interrupt or trap gate, check by check: how the same-level and the inner path end,
and what the handler finds; and the stops of Real Address Mode. -/

namespace Sys2Proof.Machine

/-! ### Real Address Mode (rules R47, R103) -/

section Real
variable {ev : Event} {s : State}

theorem deliverReal_of_wide (h : s.ss.inv.big = true) : deliverReal ev s = .refused .realModeWideStack := if_pos h

theorem deliverReal_of_beyond (hb : s.ss.inv.big = false) (hsp : ¬ ShutdownStack s) (h : ¬ s.InRealIdt ev.vector) :
    deliverReal ev s = .refused .realModeVectorBeyondLimit := by
  rw [deliverReal, if_neg (by simp [hb]), if_neg hsp, if_pos h]

end Real

/-- Settles O21: a delivery with PE = 0 is that of Real Address Mode, which has no raise and two refusals. -/
theorem realModeRaisesNothing : Obligations.RealModeRaisesNothing := by
  intro ev s hp hv hpe
  rw [deliver_real hp (not_illegalMode_iff.2 (.inr hv)) hpe]
  refine ⟨fun t e c => deliverReal_not_raised, deliverReal_of_wide, fun hb h1 h3 h5 hlim => ?_⟩
  exact deliverReal_of_beyond hb (by simp [h1, h3, h5]) (Nat.not_le.2 hlim)

/-! ### Through an open gate to a path -/

section Gate
variable {ev : Event} {s : State} {size : GateSize} {b : Bool}

/-- A check, and what follows it, as the choice it makes in a delivery. -/
theorem passing_require {α : Type} {p : Prop} [Decidable p] {st : Stop} {f : Unit → Except Stop α}
    {k : α → Delivery} : passing s (require p st >>= f) k =
      if ¬ p then passing s (.error st) k else passing s (f ()) k := by
  by_cases h : p
  · rw [require_pos h, if_neg (not_not.2 h)]
  · rw [require_neg h, if_pos h]

/-- The last check of a block. -/
theorem passing_require_last {p : Prop} [Decidable p] {st : Stop} {k : Unit → Delivery} :
    passing s (require p st) k = if ¬ p then passing s (.error st) k else k () := by
  by_cases h : p
  · rw [(require_ok (u := ())).2 h, if_neg (not_not.2 h), passing_ok]
  · rw [require_error.2 ⟨h, rfl⟩, if_pos h]

/-- A delivery through an open gate to an open code segment comes to the choice of its path. -/
theorem deliver_of_open (hg : GateOpen ev s (GateKind.through size b))
    (hc : CodeOpen s (gateTarget s ev.vector size b)) :
    deliver ev s = throughGate ev s size b := by
  have hkind := (gateOpen_iff hg.mode hg.noPaging).1 hg
  rw [deliver_eq_of_runs hg.noPaging (not_illegalMode_iff.2 (.inl hg.mode)), if_neg (by simp [hg.mode]),
    deliverProtected, hkind, passing_ok]
  cases b <;> rfl

/-- Rule R110, the path to an inner level: its checks, then the transfer. -/
theorem throughGate_inner (hc : CodeOpen s (gateTarget s ev.vector size b)) (hv : s.vmFlag = false)
    (hconf : Ar.isConforming (gateTarget s ev.vector size b).code.ar = false)
    (hdpl : Ar.dpl (gateTarget s ev.vector size b).code.ar < s.privilege) :
    throughGate ev s size b = passing s (stackChecks ev s (gateTarget s ev.vector size b)
      (Ar.dpl (gateTarget s ev.vector size b).code.ar) (innerBytes size + errorBytes ev size))
      fun n => .transferred (innerTransfer ev (gateTarget s ev.vector size b) n s) := by
  have hpath : choosePath ev s (gateTarget s ev.vector size b) = .ok .inner :=
    (choosePath_ok ..).2 (.inl ⟨rfl, hconf, hdpl, hv⟩)
  simp only [throughGate, (codeOpen_iff (ev := ev)).1 hc, hpath, passing_ok]

/-- Rule R110, the path at the same level: its checks, then the transfer. -/
theorem throughGate_same (hc : CodeOpen s (gateTarget s ev.vector size b)) (hv : s.vmFlag = false)
    (hdpl : Ar.dpl (gateTarget s ev.vector size b).code.ar ≤ s.privilege)
    (hchosen : Ar.isConforming (gateTarget s ev.vector size b).code.ar = true ∨
      Ar.dpl (gateTarget s ev.vector size b).code.ar = s.privilege) :
    throughGate ev s size b = passing s (sameChecks ev s (gateTarget s ev.vector size b))
      fun _ => .transferred (sameTransfer ev (gateTarget s ev.vector size b) s) := by
  have hnotInner : ¬ (Ar.isConforming (gateTarget s ev.vector size b).code.ar = false ∧
      Ar.dpl (gateTarget s ev.vector size b).code.ar < s.privilege) := by
    rintro ⟨hconf, hlt⟩
    obtain hc | heq := hchosen
    · exact absurd (hconf.symm.trans hc) (by decide)
    · exact absurd (heq ▸ hlt) (BitVec.lt_irrefl _)
  have hpath : choosePath ev s (gateTarget s ev.vector size b) = .ok .same :=
    (choosePath_ok ..).2 (.inr (.inr ⟨rfl, hnotInner, hdpl, hv⟩))
  simp only [throughGate, (codeOpen_iff (ev := ev)).1 hc, hpath, passing_ok]

/-- The bytes of an error code's push, by the width of the gate (rule R132). -/
theorem errorBytes_eq (ev : Event) (size : GateSize) :
    errorBytes ev size = match ev.errcode with | none => 0 | some _ => size.bytes := by
  unfold errorBytes
  cases ev.errcode <;> cases size <;> rfl

end Gate

/-! ### The checks of the two paths, in their order -/

section Checks
variable {ev : Event} {s : State} {g : Target}

/-- Rule R115, with the refusals of decisions D22 and D23. -/
theorem passing_sameChecks (need : Nat) (hneed : sameBytes g.size + errorBytes ev g.size = need) (d : Delivery) :
    passing s (sameChecks ev s g) (fun _ => d) =
      if ¬ RoomNotWrapping s.ss.inv.big s.esp need then .refused .stackPointerWraps
      else if ¬ StackRoom s.ss.inv s.ss.inv.big s.esp need then .raised s .ss 0#16
      else if ¬ InSegment g.code g.offset.toNat 1 then .raised s .gp 0#16
      else if Ar.accessed g.code.ar = false then .refused .accessedBitClear
      else d := by
  subst hneed
  simp only [sameChecks, passing_require, passing_require_last, passing_raise, passing_refuse, Bool.not_eq_true]

/-- Rule R111, where the fields of the TSS lie within its limit. -/
theorem passing_stackChecks {k : BitVec 2} (need : Nat) (done : NewStack → Delivery) (h : s.InTss k.toNat) :
    passing s (stackChecks ev s g k need) done = newStackOutcome ev s g k need done := by
  simp only [stackChecks, passing_require, passing_raise, passing_refuse, not_not, Bool.not_eq_true, not_and_or]
  rw [if_neg (not_not.2 h)]
  rfl

theorem passing_stackChecks_of_beyond {k : BitVec 2} (need : Nat) (done : NewStack → Delivery)
    (h : ¬ s.InTss k.toNat) : passing s (stackChecks ev s g k need) done = .refused .tssBeyondLimit := by
  rw [stackChecks, passing_require, if_pos h, passing_refuse]

end Checks

/-- Settles O25: the inner path's checks are those of `newStackOutcome`, after the test of the TSS limit. -/
theorem newStackChecksInOrder : Obligations.NewStackChecksInOrder := by
  intro ev s size b hg hc hv g k hconf hdpl need
  have hneed : innerBytes size + errorBytes ev size = need := congrArg (innerBytes size + ·) (errorBytes_eq ev size)
  rw [deliver_of_open hg hc, throughGate_inner hc hv hconf hdpl, hneed]
  exact ⟨fun h => passing_stackChecks_of_beyond _ _ (Nat.not_le.2 h), passing_stackChecks _ _⟩

/-- Settles O27: the same-level path's checks, one by one. -/
theorem sameLevelChecksInOrder : Obligations.SameLevelChecksInOrder := by
  intro ev s size b hg hc hv g hdpl hchosen need
  have hneed : sameBytes size + errorBytes ev size = need := congrArg (sameBytes size + ·) (errorBytes_eq ev size)
  rw [deliver_of_open hg hc, throughGate_same hc hv hdpl hchosen]
  exact passing_sameChecks need hneed _

/-! ### What the handler finds -/

section Entry
variable {ev : Event} {s : State} {size : GateSize} {b : Bool}

theorem SamePath.deliver (h : SamePath ev s size b) :
    deliver ev s = .transferred (sameTransfer ev (gateTarget s ev.vector size b) s) := by
  have ready := h.ready
  rw [same_bytes] at ready
  have hok : sameChecks ev s (gateTarget s ev.vector size b) = .ok () :=
    (sameChecks_ok ..).2 ⟨ready.noWrap, ready.room, ready.inCode, ready.accessed⟩
  rw [deliver_of_open h.gate h.code, throughGate_same h.code h.notV86 h.level h.chosen, hok, passing_ok]

theorem InnerPath.deliver {n : NewStack} (h : InnerPath ev s size b n) :
    deliver ev s = .transferred (innerTransfer ev (gateTarget s ev.vector size b) n s) := by
  have ready := h.ready
  rw [inner_bytes] at ready
  rw [deliver_of_open h.gate h.code, throughGate_inner h.code h.notV86 h.nonConforming h.level,
    (stackChecks_ok ..).2 ready, passing_ok]

end Entry

/-- Settles O29: an open same-level path is the transfer of rule R116, whose stack and registers are those of
`SameEntered`. -/
theorem sameLevelEntry : Obligations.SameLevelEntry := by
  intro ev s size b h
  have room := h.ready.noWrap
  rw [same_bytes] at room
  exact ⟨_, h.deliver, sameEntered_sameTransfer h.gate.mode h.notV86 room⟩

/-- Settles O30: an open inner path is the transfer of rule R112, whose stack and registers are those of
`InnerEntered`. -/
theorem innerLevelEntry : Obligations.InnerLevelEntry := by
  intro ev s size b n h
  have room := h.ready.noWrap
  rw [inner_bytes] at room
  exact ⟨_, h.deliver, innerEntered_innerTransfer h.gate.mode h.notV86 room⟩

end Sys2Proof.Machine
end

section
/-! PROOFS. The decoder against the encoder, and the opcodes that neither of them knows. -/

namespace Sys2Proof.Machine

/-! ### Decoding and encoding -/

/-- A well-formed instruction is read from its own bytes; an immediate below 256 is its byte's number (rule R70). -/
theorem decode_encode {i : Instr} (hw : i.wellFormed = true) (rest : List Byte) :
    decode (encode i ++ rest) = .ok (i, rest) := by
  cases i with
  | int3 => exact decode_int3 rest
  | intImm8 imm8 =>
    have himm : (BitVec.ofNat 8 imm8).toNat = imm8 := Nat.mod_eq_of_lt (wellFormed_intImm8.1 hw)
    have hd := decode_intImm8 (BitVec.ofNat 8 imm8) rest
    rwa [himm] at hd
  | into => exact decode_into rest

/-- What the decoder reads an instruction from begins with that instruction's bytes. -/
theorem eq_encode_append_of_decode {bytes rest : List Byte} {i : Instr} (h : decode bytes = .ok (i, rest)) :
    bytes = encode i ++ rest := by
  unfold decode at h
  split at h
  case h_1 => cases h
  case h_2 op tail =>
    split at h
    case isTrue hop => cases h; rw [hop]; rfl
    split at h
    case isTrue hop => cases h; rw [hop]; rfl
    split at h
    case isFalse => cases h
    case isTrue hop =>
      split at h
      case h_1 => cases h
      case h_2 imm8 _ =>
        cases h
        rw [hop, encode, BitVec.ofNat_toNat, BitVec.setWidth_eq]
        rfl

/-- Settles O2: the decoder reads only well-formed instructions, from their own bytes, and each of them. -/
theorem decodeEncodeAgree : Obligations.DecodeEncodeAgree := by
  intro i bytes rest
  constructor
  · intro h
    exact ⟨decode_wellFormed h, eq_encode_append_of_decode h⟩
  · rintro ⟨hw, rfl⟩
    exact decode_encode hw rest

/-! ### Unknown opcodes -/

section Unknown
variable {op : Byte} (h3 : op ≠ opcodeInt3) (hi : op ≠ opcodeIntImm8) (ho : op ≠ opcodeInto)
include h3 hi ho

/-- The first byte alone decides that an opcode is unknown (rules R65, R73). -/
theorem decode_unknownOpcode (rest : List Byte) : decode (op :: rest) = .error (.unknownOpcode op) := by
  simp only [decode, h3, ho, hi, if_false]

/-- The fetch passes the decoder's refusal on, once the opcode byte is inside the CS limit. -/
theorem fetchInstr_unknownOpcode {s : State} (hf : s.FetchInLimit 1) (hop : s.read8 (s.codeBase + s.eip) = op) :
    fetchInstr s = .error (.unknownOpcode op) := by
  have hd : decode s.fetchBytes = .error (.unknownOpcode op) := by
    rw [fetchBytes_eq, hop]
    exact decode_unknownOpcode h3 hi ho _
  simp only [fetchInstr, hf, hd, not_true, if_false]

end Unknown

/-- Settles O1: each word begins with a known opcode, or with the byte of no instruction. -/
theorem specWordsDecode : Obligations.SpecWordsDecode :=
  ⟨decode_int3 [], decode_intImm8 0x00#8 [], decode_intImm8 0xFF#8 [], decode_intImm8 0x03#8 [],
    decode_intImm8 0x04#8 [], decode_intImm8 0xCC#8 [], decode_intImm8 0xCE#8 [], decode_into [],
    decode_unknownOpcode (by decide) (by decide) (by decide) [],
    decode_unknownOpcode (by decide) (by decide) (by decide) [0xCC#8],
    decode_unknownOpcode (by decide) (by decide) (by decide) [0xCD#8, 0x21#8]⟩

/-- Settles O3: the decoder refuses the byte, so the fetch does, and nothing blocks the step before it. -/
theorem otherOpcodesRefused : Obligations.OtherOpcodesRefused := by
  intro op h3 hi ho
  refine ⟨decode_unknownOpcode h3 hi ho, ?_⟩
  intro s hs hp hm ht hf hop
  exact step_of_fetch_error (blocked_none.2 ⟨hs, hp, hm, ht⟩) (fetchInstr_unknownOpcode h3 hi ho hf hop)

end Sys2Proof.Machine
end

section
/-! PROOFS. The three instructions as interrupts and exceptions, the Virtual 8086 Mode check of rule R86, and the
completion of each instruction along every path that is no task switch. -/

namespace Sys2Proof.Machine

/-! ### An instruction that makes its interrupt -/

section Software
variable {i : Instr} {s t : State} {n : Byte}

/-- An instruction that makes an interrupt takes it as a software interrupt (rule R80). -/
theorem exec_eq_interrupt (h : Runnable s i.length) (hn : interruptOf s i = some n) :
    exec i s = interrupt (bySoftware n i.length s) s :=
  exec_of_interrupt h hn

/-- Where the delivery of its interrupt completes, so does the instruction. -/
theorem exec_of_transferred (h : Runnable s i.length) (hn : interruptOf s i = some n)
    (hd : deliver (bySoftware n i.length s) s = .transferred t) : exec i s = .next t :=
  (exec_eq_interrupt h hn).trans (interrupt_of_transferred hd)

end Software

/-! ### A raised exception -/

/-- Raising an exception is taking its event: a raise during its delivery is refused either way (rule R131,
decision D9). -/
theorem raiseException_eq_interrupt (e : Exc) (code : Word) (origin s : State) :
    raiseException e code origin s = interrupt (byException e code origin) s := by
  rw [raiseException, interrupt, exceptionEvent_eq]
  cases deliver (byException e code origin) s <;> rfl

/-! ### `INT imm8` and `INTO`, case by case -/

section Cases
variable {s : State}

/-- The immediate of `INT imm8` is the vector, unsigned (rule R70). -/
theorem bySoftware_vector_toNat {imm8 : Nat} (h : imm8 < 256) (len : Nat) (s : State) :
    (bySoftware (BitVec.ofNat 8 imm8) len s).vector.toNat = imm8 :=
  Nat.mod_eq_of_lt h

/-- Rules R82 and R86 together. -/
theorem exec_intImm8_eq (h : Runnable s 2) (imm8 : Nat) :
    exec (.intImm8 imm8) s =
      if s.pe = true ∧ s.vmFlag = true ∧ s.iopl < 3 then interrupt (byException .gp 0#16 s) s
      else interrupt (bySoftware (BitVec.ofNat 8 imm8) 2 s) s := by
  rw [exec_intImm8 h, raiseException_eq_interrupt]
  simp only [mode_eq_v86_iff, and_assoc]
  rfl

/-- Rule R86: `INT imm8` is turned away in Virtual 8086 Mode with IOPL less than 3. -/
theorem exec_intImm8_of_trapped (h : Runnable s 2) (imm8 : Nat) (hpe : s.pe = true) (hv : s.vmFlag = true)
    (hio : s.iopl < 3) : exec (.intImm8 imm8) s = interrupt (byException .gp 0#16 s) s :=
  (exec_intImm8_eq h imm8).trans (if_pos ⟨hpe, hv, hio⟩)

/-- Rule R82: in every other state `INT imm8` makes its interrupt. -/
theorem exec_intImm8_of_allowed (h : Runnable s 2) (imm8 : Nat)
    (ha : ¬ (s.pe = true ∧ s.vmFlag = true ∧ s.iopl < 3)) :
    exec (.intImm8 imm8) s = interrupt (bySoftware (BitVec.ofNat 8 imm8) 2 s) s :=
  (exec_intImm8_eq h imm8).trans (if_neg ha)

/-- Rule R83 with OF = 1. -/
theorem exec_into_of_overflow (h : Runnable s 1) (ho : s.overflowFlag = true) :
    exec .into s = interrupt (bySoftware 4#8 1 s) s :=
  exec_eq_interrupt (i := .into) h (if_pos ho)

/-- Rule R83 with OF = 0. -/
theorem exec_into_of_no_overflow (h : Runnable s 1) (ho : s.overflowFlag = false) :
    exec .into s = .next { s with eip := s.eip + 1#32 } :=
  (exec_into h).trans (if_neg (Bool.eq_false_iff.mp ho))

end Cases

/-- Settles O13: `INT 3` makes its interrupt whatever the state. -/
theorem intThreeInterrupts : Obligations.IntThreeInterrupts :=
  fun _ h => exec_eq_interrupt (i := .int3) h rfl

/-- Settles O14. -/
theorem intImmediateInterrupts : Obligations.IntImmediateInterrupts :=
  fun s imm8 himm h => ⟨bySoftware_vector_toNat himm 2 s, exec_intImm8_eq h imm8⟩

/-- Settles O15. -/
theorem intoInterruptsOnOverflow : Obligations.IntoInterruptsOnOverflow :=
  fun _ h => ⟨exec_into_of_overflow h, exec_into_of_no_overflow h⟩

/-- Settles O16: the check turns `INT imm8` away exactly where PE = 1, VM = 1 and IOPL is less than 3, and the other
two instructions do not make it. -/
theorem v86IoplCheck : Obligations.V86IoplCheck := by
  refine ⟨fun s imm8 _ h hpe hv => ⟨exec_intImm8_of_trapped h imm8 hpe hv, fun hio => ?_⟩,
    fun s h _ _ => ⟨intThreeInterrupts s h, intoInterruptsOnOverflow s h⟩, fun s imm8 _ h hm => ?_⟩
  · exact exec_intImm8_of_allowed h imm8 fun ⟨_, _, hlt⟩ => Nat.ne_of_lt hlt hio
  · refine exec_intImm8_of_allowed h imm8 fun ⟨hpe, hv, _⟩ => ?_
    rcases hm with hm | hm
    · exact Bool.false_ne_true (hm.symm.trans hpe)
    · exact Bool.false_ne_true (hm.symm.trans hv)

/-! ### Completion along each path (rule R172) -/

/-- A state that is ready for it delivers an event in Real Address Mode by the transfer of rule R103. -/
theorem RealReady.deliver {ev : Event} {s : State} (h : RealReady s ev.vector) (hp : s.paging = false)
    (hm : ¬ s.IllegalMode) : deliver ev s = .transferred (realTransfer ev s) := by
  obtain ⟨h1, h3, h5⟩ := h.stack
  have hsp : ¬ ShutdownStack s := by simp [h1, h3, h5]
  rw [deliver_real hp hm h.mode]
  exact deliverReal_transferred.2 ⟨h.narrow, hsp, h.inIdt, rfl⟩

/-- Such a delivery enters the handler (rule R103). -/
theorem RealReady.entry {ev : Event} {s : State} (h : RealReady s ev.vector) (hp : s.paging = false)
    (hm : ¬ s.IllegalMode) :
    ∃ t, Machine.deliver ev s = .transferred t ∧ RealEntered ev.vector ev.retSelector ev.retOffset s t :=
  ⟨_, h.deliver hp hm, realEntered_realTransfer h.mode⟩

/-- Settles O19: the instruction's interrupt enters the handler, as any event does in Real Address Mode. -/
theorem realModeInterruptsComplete : Obligations.RealModeInterruptsComplete := by
  intro i s n hr hi ready
  obtain ⟨t, hd, ht⟩ := RealReady.entry (ev := bySoftware n i.length s) ready hr.noPaging hr.legalMode
  exact ⟨t, exec_of_transferred hr hi hd, ht⟩

/-- Settles O32: the instruction's interrupt enters the handler at the same level, as any event does. -/
theorem sameLevelInterruptsComplete : Obligations.SameLevelInterruptsComplete := by
  intro i s n size b hr hi path
  obtain ⟨t, hd, ht⟩ := sameLevelEntry _ s size b path
  exact ⟨t, exec_of_transferred hr hi hd, ht⟩

/-- Settles O33: the instruction's interrupt enters the handler at the inner level, as any event does. -/
theorem innerLevelInterruptsComplete : Obligations.InnerLevelInterruptsComplete := by
  intro i s v size b n hr hi path
  obtain ⟨t, hd, ht⟩ := innerLevelEntry _ s size b n path
  exact ⟨t, exec_of_transferred hr hi hd, ht⟩

/-- Settles O34: the instruction's interrupt enters the level 0 handler, as any event does. -/
theorem v86ModeInterruptsComplete : Obligations.V86ModeInterruptsComplete := by
  intro i s v b n hr hi path
  obtain ⟨t, hd, ht⟩ := v86ModeEntry _ s b n path
  exact ⟨t, exec_of_transferred hr hi hd, ht⟩

/-- Settles O35: the check of rule R86 makes `INT imm8` the exception #GP(0), whose delivery enters the level 0
handler. -/
theorem v86EmulationTrapEnters : Obligations.V86EmulationTrapEnters := by
  intro s imm8 b n hr hpe hv hio path
  obtain ⟨t, hd, ht⟩ := v86ModeEntry _ s b n path
  exact ⟨t, (exec_intImm8_of_trapped hr imm8 hpe hv hio).trans (interrupt_of_transferred hd), ht⟩

end Sys2Proof.Machine
end

section
/-! PROOFS. The two forms of error codes, bit by bit (rule R106). -/

namespace Sys2Proof.Machine

section ErrorCodes
variable (vector : Byte) (sel : Word) (ext : Bool)

/-- The sum of the vector form does not overflow. -/
theorem vectorError_toNat : (vectorError vector ext).toNat = vector.toNat * 8 + 2 + if ext then 1 else 0 := by
  have hv := vector.isLt
  cases ext <;>
    simp only [vectorError, extBit, BitVec.toNat_add, BitVec.toNat_mul, BitVec.toNat_setWidth, BitVec.toNat_ofNat,
      if_true, Bool.false_eq_true, if_false] <;> omega

/-- The model's vector form is that of the statements. -/
theorem vectorError_eq : vectorError vector ext = vectorCode vector ext := by
  refine BitVec.eq_of_toNat_eq ?_
  rw [vectorCode, BitVec.toNat_ofNat, ← vectorError_toNat, Nat.mod_eq_of_lt (BitVec.isLt _)]

/-- The model's selector form is that of the statements. -/
theorem selectorError_eq : selectorError sel ext = selectorCode sel ext := rfl

/-- The vector form is the vector above the three bits 0, 1 and EXT. -/
theorem vectorError_eq_append :
    vectorError vector ext = vector.setWidth 13 ++ (if ext then 0b011#3 else 0b010#3) := by
  refine BitVec.eq_of_toNat_eq ?_
  have hv := vector.isLt
  rw [vectorError_toNat, BitVec.toNat_append, ← Nat.shiftLeft_add_eq_or_of_lt (BitVec.isLt _), Nat.shiftLeft_eq,
    BitVec.toNat_setWidth]
  cases ext <;> simp <;> omega

theorem vectorError_high : (vectorError vector ext).extractLsb' 3 13 = vector.setWidth 13 := by
  rw [vectorError_eq_append, BitVec.extractLsb'_append_eq_left]

/-- Bits 2, 1 and 0 of the vector form are 0, 1 and EXT. -/
theorem vectorError_low {n : Nat} (hn : n < 3) :
    (vectorError vector ext).getLsbD n = (if ext then 0b011#3 else 0b010#3).getLsbD n := by
  rw [vectorError_eq_append, BitVec.getLsbD_append, if_pos hn]

/-- Bits 15:2 of the selector form are the selector's. -/
theorem selectorError_high : (selectorError sel ext).extractLsb' 2 14 = sel.extractLsb' 2 14 := by
  have hmask : (0xFFFC#16).extractLsb' 2 14 = BitVec.allOnes 14 := by decide
  have hext : (extBit ext).extractLsb' 2 14 = 0#14 := by cases ext <;> decide
  rw [selectorError, Selector.base, BitVec.extractLsb'_or, BitVec.extractLsb'_and, hmask, hext, BitVec.and_allOnes,
    BitVec.or_zero]

/-- Bits 1 and 0 of the selector form are those of EXT. -/
theorem selectorError_low {n : Nat} (hn : (0xFFFC#16).getLsbD n = false) :
    (selectorError sel ext).getLsbD n = (extBit ext).getLsbD n := by
  rw [selectorError, Selector.base, BitVec.getLsbD_or, BitVec.getLsbD_and, hn, Bool.and_false, Bool.false_or]

end ErrorCodes

/-- Settles O48: the vector form is the vector above three bits, and the selector form takes bits 15:2 from the
selector and the other two from EXT. -/
theorem errorCodeForms : Obligations.ErrorCodeForms := by
  constructor
  · intro vector ext
    refine ⟨vectorError_toNat .., vectorError_high .., ?_, ?_, ?_⟩ <;> rw [vectorError_low _ _ (by decide)] <;>
      cases ext <;> rfl
  · intro sel ext
    refine ⟨selectorError_high .., ?_, ?_⟩ <;> rw [selectorError_low _ _ (by decide)] <;> cases ext <;> rfl

end Sys2Proof.Machine
end

section
/-! PROOFS. The delivery in each mode, check by check: the gate, its code segment, the choice of path, the
Virtual 8086 path and the task gate. -/

namespace Sys2Proof.Machine

/-! ### The mode (rules R102, R103) -/

section Mode
variable {ev : Event} {s : State}

/-- PE = 1 goes to PROTECTED-MODE, whatever VM. -/
theorem deliver_protected (hp : s.paging = false) (hpe : s.pe = true) : deliver ev s = deliverProtected ev s := by
  rw [deliver_eq_of_runs hp (not_illegalMode_iff.2 (.inl hpe)), if_neg (by simp [hpe])]

end Mode

/-- Settles O17. -/
theorem modeDispatch : Obligations.ModeDispatch :=
  fun _ _ hp hm => ⟨deliver_real hp hm, deliver_protected hp⟩

/-- Settles O18: a state that is ready for it enters the handler by the transfer of rule R103, and SP = 1, 3 or 5 is
the shutdown of rule R104. -/
theorem realModeDelivery : Obligations.RealModeDelivery := by
  intro ev s hp hv
  have hm : ¬ s.IllegalMode := not_illegalMode_iff.2 (.inr hv)
  exact ⟨fun ready => ready.entry hp hm,
    fun hpe hb hsp => ⟨_, deliver_of_shutdownStack hp hm hpe hb hsp, rfl⟩⟩

/-! ### The checks of the gate (rule R105) -/

section GateChecks
variable {ev : Event} {s : State} {k : GateKind → Delivery}

/-- Both the limit and the type raise #GP. -/
theorem passing_gateChecks_of_no_gate (h : gateKind (descriptorAr (s.idtEntry ev.vector)) = none) :
    passing s (gateChecks ev s) k = .raised s .gp (vectorCode ev.vector ev.ext) := by
  simp only [gateChecks, passing_require, h, passing_raise, ite_self, vectorError_eq]

/-- The limit, the privilege of a software interrupt, the presence of the gate. -/
theorem passing_gateChecks_of_gate {kind : GateKind}
    (h : gateKind (descriptorAr (s.idtEntry ev.vector)) = some kind) :
    passing s (gateChecks ev s) k =
      if ¬ s.InIdt ev.vector then .raised s .gp (vectorCode ev.vector ev.ext)
      else if ¬ (ev.software = true → s.privilege ≤ Ar.dpl (descriptorAr (s.idtEntry ev.vector))) then
        .raised s .gp (vectorCode ev.vector ev.ext)
      else if ¬ Ar.present (descriptorAr (s.idtEntry ev.vector)) = true then
        .raised s .np (vectorCode ev.vector ev.ext)
      else k kind := by
  simp only [gateChecks, passing_require, h, passing_raise, vectorError_eq]
  rfl

end GateChecks

/-- Settles O22. -/
theorem gateChecksInOrder : Obligations.GateChecksInOrder := by
  intro ev s hp hpe ar code
  rw [deliver_protected hp hpe, deliverProtected]
  cases h : gateKind ar with
  | none => rw [passing_gateChecks_of_no_gate h, if_pos rfl, ite_self]
  | some kind =>
    rw [passing_gateChecks_of_gate h, if_neg (Option.some_ne_none kind)]
    simp only [Nat.not_le, Classical.not_imp, BitVec.not_le, Bool.not_eq_true]
    cases kind <;> rfl

/-! ### The checks of the code segment (rule R109) -/

section CodeChecks
variable {ev : Event} {s : State} {size : GateSize} {b : Bool}

/-- An open gate goes to TRAP-GATE-OR-INTERRUPT-GATE, whatever its code segment. -/
theorem GateOpen.deliver (h : GateOpen ev s (GateKind.through size b)) :
    deliver ev s = throughGate ev s size b := by
  rw [deliver_protected h.noPaging h.mode, deliverProtected, (gateOpen_iff h.mode h.noPaging).1 h, passing_ok]
  cases b <;> rfl

theorem passing_codeChecks {g : Target} (d : Delivery) :
    passing s (codeChecks ev s g) (fun _ => d) =
      if Selector.IsNull g.selector then .raised s .gp (extBit ev.ext)
      else if ¬ s.InLimits g.selector then .raised s .gp (selectorCode g.selector ev.ext)
      else if Ar.isCode g.code.ar = false then .raised s .gp (selectorCode g.selector ev.ext)
      else if Ar.present g.code.ar = false then .raised s .np (selectorCode g.selector ev.ext)
      else d := by
  simp only [codeChecks, passing_require, passing_require_last, passing_raise, not_not, Bool.not_eq_true,
    selectorError_eq]

end CodeChecks

/-- Settles O23. -/
theorem codeSegmentChecksInOrder : Obligations.CodeSegmentChecksInOrder := by
  intro ev s size b h selector ar code
  have hcode : Ar.isCode ar = false ↔ ar.getLsbD 4 = false ∨ ar.getLsbD 3 = false := Bool.and_eq_false_iff
  rw [h.deliver, throughGate, passing_codeChecks]
  simp only [Nat.not_le, ← hcode]
  rfl

/-! ### The choice of path (rules R110, R113) -/

section ChoosePath
variable {ev : Event} {s : State} {size : GateSize} {b : Bool} {g : Target}

theorem choosePath_of_above (hc : Ar.isConforming g.code.ar = false) (h : s.privilege < Ar.dpl g.code.ar) :
    choosePath ev s g = .error (.raise .gp (selectorCode g.selector ev.ext)) := by
  have hle : ¬ Ar.dpl g.code.ar ≤ s.privilege := BitVec.not_le.2 h
  have hlt : ¬ Ar.dpl g.code.ar < s.privilege := fun hlt => hle (BitVec.le_of_lt hlt)
  simp [choosePath, hc, hle, hlt, selectorError_eq]

theorem choosePath_of_conforming_above (hc : Ar.isConforming g.code.ar = true)
    (h : s.privilege < Ar.dpl g.code.ar) : choosePath ev s g = .error (.refuse .conformingSegmentAboveCpl) := by
  simp [choosePath, hc, BitVec.not_le.2 h]

theorem le_three (x : BitVec 2) : x ≤ 3#2 := BitVec.le_def.2 (Nat.le_of_lt_succ x.isLt)

/-- Out of Virtual 8086 Mode, where CPL is 3, only a 32-bit gate to a non-conforming level 0 segment goes on. -/
theorem choosePath_of_v86 (hpe : s.pe = true) (hv : s.vmFlag = true)
    (h : ¬ (Ar.isConforming g.code.ar = false ∧ Ar.dpl g.code.ar = 0#2 ∧ g.size = .bits32)) :
    choosePath ev s g = .error (.refuse .v86NotToLevelZero) := by
  have hle : Ar.dpl g.code.ar ≤ s.privilege := by rw [privilege_v86 hpe hv]; exact le_three _
  by_cases hinner : Ar.isConforming g.code.ar = false ∧ Ar.dpl g.code.ar < s.privilege
  · have hnot : ¬ (Ar.dpl g.code.ar = 0#2 ∧ g.size = .bits32) := fun hzero => h ⟨hinner.1, hzero⟩
    simp only [choosePath, if_pos hinner, if_pos hv, if_neg hnot]
  · simp only [choosePath, if_neg hinner, if_pos hle, if_pos hv]

/-- A raise in the choice of path ends the delivery. -/
theorem throughGate_of_raise {e : Exc} {c : Word} (hc : CodeOpen s (gateTarget s ev.vector size b))
    (h : choosePath ev s (gateTarget s ev.vector size b) = .error (.raise e c)) :
    throughGate ev s size b = .raised s e c := by
  simp only [throughGate, (codeOpen_iff (ev := ev)).1 hc, h, passing_ok, passing_raise]

/-- A refusal in the choice of path ends the delivery. -/
theorem throughGate_of_refuse {r : Refusal} (hc : CodeOpen s (gateTarget s ev.vector size b))
    (h : choosePath ev s (gateTarget s ev.vector size b) = .error (.refuse r)) :
    throughGate ev s size b = .refused r := by
  simp only [throughGate, (codeOpen_iff (ev := ev)).1 hc, h, passing_ok, passing_refuse]

/-- Rule R113, the path out of Virtual 8086 Mode: its checks, then the transfer. -/
theorem throughGate_fromV86 (hc : CodeOpen s (gateTarget s ev.vector .bits32 b)) (hpe : s.pe = true)
    (hv : s.vmFlag = true) (hconf : Ar.isConforming (gateTarget s ev.vector .bits32 b).code.ar = false)
    (hdpl : Ar.dpl (gateTarget s ev.vector .bits32 b).code.ar = 0#2) :
    throughGate ev s .bits32 b = passing s (v86Checks ev s (gateTarget s ev.vector .bits32 b))
      fun n => .transferred (v86Transfer ev (gateTarget s ev.vector .bits32 b) n s) := by
  have below : Ar.dpl (gateTarget s ev.vector .bits32 b).code.ar < s.privilege := by
    rw [hdpl, privilege_v86 hpe hv]; decide
  have hpath : choosePath ev s (gateTarget s ev.vector .bits32 b) = .ok .fromV86 :=
    (choosePath_ok ..).2 (.inr (.inl ⟨rfl, hconf, below, hv, hdpl, rfl⟩))
  simp only [throughGate, (codeOpen_iff (ev := ev)).1 hc, hpath, passing_ok]

end ChoosePath

/-- Settles O24. -/
theorem pathStops : Obligations.PathStops := by
  intro ev s size b h hc g d
  rw [h.deliver]
  exact ⟨fun hconf habove => throughGate_of_raise hc (choosePath_of_above hconf habove),
    fun hconf habove => throughGate_of_refuse hc (choosePath_of_conforming_above hconf habove),
    fun hv hnot => throughGate_of_refuse hc (choosePath_of_v86 h.mode hv hnot)⟩

/-! ### Out of Virtual 8086 Mode (rule R114) -/

/-- Settles O26: NT is tested first, then the checks are those of rule R111 for level 0. -/
theorem v86StackChecksInOrder : Obligations.V86StackChecksInOrder := by
  intro ev s b h hc hv g hconf hdpl
  have hneed : v86Bytes + errorBytes ev g.size = 36 + match ev.errcode with | none => 0 | some _ => 4 :=
    congrArg (36 + ·) (errorBytes_eq ev .bits32)
  rw [h.deliver, throughGate_fromV86 hc h.mode hv hconf hdpl, v86Checks, passing_require]
  refine ⟨fun hnt => if_pos (by simp [hnt]), fun hnt hlim => ?_, fun hnt hlim => ?_⟩ <;>
    rw [if_neg (not_not.2 hnt)]
  · exact passing_stackChecks_of_beyond _ _ (Nat.not_le.2 hlim)
  · rw [hneed]
    exact passing_stackChecks _ _ hlim

/-! ### Through a task gate (rule R117) -/

section TaskGate
variable {ev : Event} {s : State}

theorem GateOpen.deliver_task (h : GateOpen ev s .taskGate) : Machine.deliver ev s = throughTaskGate ev s := by
  rw [deliver_protected h.noPaging h.mode, deliverProtected, (gateOpen_iff h.mode h.noPaging).1 h, passing_ok]

/-- Steps 1 to 4. -/
theorem passing_taskChecks (sel : Word) (d : Delivery) :
    passing s (taskChecks s sel) (fun _ => d) =
      if Selector.isLocal sel = true then .raised s .ts (Selector.base sel)
      else if ¬ Selector.index sel * 8 + 7 ≤ s.gdtr.limit.toNat then .raised s .ts (Selector.base sel)
      else if Ar.isAvailableTss (descriptorAr (s.descriptorBytes sel)) = false then
        .raised s .ts (Selector.base sel)
      else if Ar.present (descriptorAr (s.descriptorBytes sel)) = false then .raised s .np (Selector.base sel)
      else d := by
  simp only [taskChecks, passing_require, passing_require_last, passing_raise, Bool.not_eq_true, Bool.not_eq_false]

/-- Step 7. -/
theorem enterTask_eq (u : State) :
    enterTask u = if InSegment u.cs.inv u.eip.toNat 1 then .transferred u else .raised u .gp 0#16 := by
  rw [enterTask, passing_require_last, passing_raise, ite_not]

/-- Step 6, with an error code. -/
theorem passing_taskRoomChecks (d : Delivery) :
    passing s (taskRoomChecks s) (fun _ => d) =
      if ¬ RoomNotWrapping s.stackWide s.esp 2 then .refused .stackPointerWraps
      else if ¬ StackRoom s.ss.inv s.stackWide s.esp 2 then .raised s .ss 0#16
      else d := by
  simp only [taskRoomChecks, passing_require, passing_require_last, passing_raise, passing_refuse]

theorem finishTask_of_none (h : ev.errcode = none) (u : State) : finishTask ev u = enterTask u := by
  rw [finishTask, h]

theorem finishTask_of_some {code : Word} (h : ev.errcode = some code) (u : State) :
    finishTask ev u = passing u (taskRoomChecks u) fun _ => enterTask (u.push16 code) := by
  rw [finishTask, h]

/-- A push of the error code loads neither CS nor EIP. -/
theorem enterTask_push16 (u : State) (code : Word) :
    enterTask (u.push16 code) = if InSegment u.cs.inv u.eip.toNat 1 then .transferred (u.push16 code)
      else .raised (u.push16 code) .gp 0#16 := enterTask_eq _

/-- The descriptor of a selector that is not local is in the GDT (rule R50). -/
theorem descriptorBytes_of_global {sel : Word} (h : Selector.isLocal sel = false) :
    s.descriptorBytes sel = s.read64 (s.gdtr.base + BitVec.ofNat 32 (Selector.index sel * 8)) := by
  rw [State.descriptorBytes, State.table, if_neg (by simp [h])]

end TaskGate

/-- Settles O28: steps 1 to 4, the task switch, and steps 6 and 7 in the new task. -/
theorem taskGateInOrder : Obligations.TaskGateInOrder := by
  intro ev s h selector ar code
  rw [h.deliver_task, throughTaskGate, passing_taskChecks]
  by_cases hlocal : Selector.isLocal selector = true
  · rw [if_pos hlocal]
    exact (if_pos hlocal).symm
  · have har : descriptorAr (s.descriptorBytes selector) = ar :=
      congrArg descriptorAr (descriptorBytes_of_global (by simpa using hlocal))
    rw [if_neg hlocal, har]
    refine Eq.trans ?_ (if_neg hlocal).symm
    cases hv : Config.switchTasks s selector true with
    | none => simp only [Nat.not_le]; rfl
    | some v =>
      cases he : ev.errcode with
      | none =>
        simp only [Nat.not_le, finishTask_of_none he, enterTask_eq, ite_not]
        rfl
      | some code =>
        simp only [Nat.not_le, finishTask_of_some he, passing_taskRoomChecks, enterTask_push16, ite_not]
        rfl

end Sys2Proof.Machine
end

section
/-! PROOFS. Raised exceptions: how one is delivered in its turn (rule R131), that it left the state alone (rule R135),
and which exceptions with which error codes a delivery raises (rule R130). -/

namespace Sys2Proof.Machine

/-! ### A raise and its delivery (rules R131, R135) -/

/-- A raise while an exception is delivered has no meaning (decision D9). -/
theorem interrupt_of_raised_nested {ev : Event} {s u : State} {e : Exc} {c : Word} (hn : ev.nested = true)
    (h : deliver ev s = .raised u e c) : interrupt ev s = .refused .exceptionDuringException := by
  rw [interrupt, h]
  exact if_pos hn

/-- Settles O36. -/
theorem raisedExceptionIsDelivered : Obligations.RaisedExceptionIsDelivered :=
  fun _ s u e code h => ⟨fun hn => (interrupt_of_raised hn h).trans (raiseException_eq_interrupt e code s u),
    fun hn => interrupt_of_raised_nested hn h⟩

/-- Settles O37, by the inversion of a raising delivery: only one through a task gate raises in another state. -/
theorem raiseChangesNothing : Obligations.RaiseChangesNothing := by
  intro ev s u e code h
  obtain ⟨hpe, _, hsame | ⟨hgate, _⟩⟩ := deliver_raised h
  · exact ⟨hpe, fun _ => hsame⟩
  · obtain ⟨_, hkind, _⟩ := (gateChecks_ok ..).1 hgate
    exact ⟨hpe, fun hne => absurd hkind hne⟩

/-! ### The table of rule R130 -/

/-- The rows of rule R130 that a delivery of `ev` begun in `s` can raise, each exception with its error code. -/
inductive TableRow (ev : Event) (s : State) : Exc → Word → Prop where
  | gate {e : Exc} (he : e = .gp ∨ e = .np) : TableRow ev s e (vectorError ev.vector ev.ext)
  | nullSelector : TableRow ev s .gp (extBit ev.ext)
  | codeSegment {e : Exc} (he : e = .gp ∨ e = .np) :
      TableRow ev s e (selectorError (gateSelector (s.idtEntry ev.vector)) ev.ext)
  | newStack {e : Exc} (he : e = .ts ∨ e = .ss) (k : Nat) (hk : k < 3) :
      TableRow ev s e (selectorError (s.tssStackSelector k) ev.ext)
  | noSelector {e : Exc} (he : e = .ss ∨ e = .gp) : TableRow ev s e 0#16
  | task {e : Exc} (he : e = .ts ∨ e = .np) : TableRow ev s e (Selector.base (gateSelector (s.idtEntry ev.vector)))

/-- A block of checks raises nothing but what `P` allows. -/
def RaisesOnly {α : Type} (P : Exc → Word → Prop) (checks : Except Stop α) : Prop :=
  ∀ e c, checks = .error (.raise e c) → P e c

/-- A delivery raises nothing but what `P` allows. -/
def Delivery.RaisesOnly (P : Exc → Word → Prop) (d : Delivery) : Prop := ∀ u e c, d = .raised u e c → P e c

section RaisesOnly
variable {α : Type} {P : Exc → Word → Prop} {p : Prop} [Decidable p]

theorem RaisesOnly.ok (a : α) : RaisesOnly P (.ok a) := nofun

theorem RaisesOnly.raise {e : Exc} {c : Word} (h : P e c) : RaisesOnly P (.error (α := α) (.raise e c)) := by
  rintro _ _ ⟨⟩
  exact h

theorem RaisesOnly.refuse (r : Refusal) : RaisesOnly P (.error (α := α) (.refuse r)) := nofun

/-- A check raises what its stop raises. -/
theorem RaisesOnly.require {st : Stop} (h : RaisesOnly P (.error (α := Unit) st)) :
    RaisesOnly P (require p st) := by
  unfold Machine.require
  split
  · exact .ok _
  · exact h

/-- A block raises what its first check and the rest of it raise. -/
theorem RaisesOnly.bind {β : Type} {x : Except Stop β} {f : β → Except Stop α} (hx : RaisesOnly P x)
    (hf : ∀ b, RaisesOnly P (f b)) : RaisesOnly P (x >>= f) := by
  cases x with
  | ok b => exact hf b
  | error st => exact fun e c h => hx e c (congrArg _ (Except.error.inj h))

/-- A delivery raises what its checks and what follows them raise. -/
theorem RaisesOnly.passing {s : State} {x : Except Stop α} {k : α → Delivery} (hx : RaisesOnly P x)
    (hk : ∀ a, x = .ok a → (k a).RaisesOnly P) : (passing s x k).RaisesOnly P := by
  intro u e c h
  obtain ⟨hstop, _⟩ | ⟨a, ha, h⟩ := passing_raised.1 h
  · exact hx e c hstop
  · exact hk a ha u e c h

theorem Delivery.RaisesOnly.transferred (t : State) : (Delivery.transferred t).RaisesOnly P := by
  intro _ _ _ h
  cases h

theorem Delivery.RaisesOnly.refused (r : Refusal) : (Delivery.refused r).RaisesOnly P := by
  intro _ _ _ h
  cases h

theorem Delivery.RaisesOnly.ite {d d' : Delivery} (h : d.RaisesOnly P) (h' : d'.RaisesOnly P) :
    (if p then d else d').RaisesOnly P := by
  split
  · exact h
  · exact h'

end RaisesOnly

/-! ### What each block raises -/

section Rows
variable {ev : Event} {s : State}

theorem gateChecks_raises : RaisesOnly (TableRow ev s) (gateChecks ev s) := by
  have hgp : TableRow ev s .gp (vectorError ev.vector ev.ext) := .gate (.inl rfl)
  have hnp : TableRow ev s .np (vectorError ev.vector ev.ext) := .gate (.inr rfl)
  simp only [gateChecks]
  refine .bind (.require (.raise hgp)) fun _ => ?_
  cases gateKind (descriptorAr (s.idtEntry ev.vector)) with
  | none => exact .raise hgp
  | some kind => exact .bind (.require (.raise hgp)) fun _ => .bind (.require (.raise hnp)) fun _ => .ok kind

theorem codeChecks_raises (size : GateSize) (b : Bool) :
    RaisesOnly (TableRow ev s) (codeChecks ev s (gateTarget s ev.vector size b)) :=
  .bind (.require (.raise .nullSelector)) fun _ =>
    .bind (.require (.raise (.codeSegment (.inl rfl)))) fun _ =>
      .bind (.require (.raise (.codeSegment (.inl rfl)))) fun _ => .require (.raise (.codeSegment (.inr rfl)))

theorem choosePath_raises (size : GateSize) (b : Bool) :
    RaisesOnly (TableRow ev s) (choosePath ev s (gateTarget s ev.vector size b)) := by
  intro e c h
  simp only [choosePath] at h
  split_ifs at h <;> cases h
  exact .codeSegment (.inl rfl)

/-- The new stack's selector is that of one of the three inner levels. -/
theorem stackChecks_raises (g : Target) {k : BitVec 2} (hk : k.toNat < 3) (need : Nat) :
    RaisesOnly (TableRow ev s) (stackChecks ev s g k need) := by
  have hts : TableRow ev s .ts (selectorError (s.tssStackSelector k.toNat) ev.ext) := .newStack (.inl rfl) _ hk
  have hss : TableRow ev s .ss (selectorError (s.tssStackSelector k.toNat) ev.ext) := .newStack (.inr rfl) _ hk
  exact .bind (.require (.refuse _)) fun _ =>
    .bind (.require (.raise .nullSelector)) fun _ =>
    .bind (.require (.raise hts)) fun _ =>
    .bind (.require (.raise hts)) fun _ =>
    .bind (.require (.raise hts)) fun _ =>
    .bind (.require (.raise hts)) fun _ =>
    .bind (.require (.raise hss)) fun _ =>
    .bind (.require (.refuse _)) fun _ =>
    .bind (.require (.raise (.noSelector (.inl rfl)))) fun _ =>
    .bind (.require (.raise (.noSelector (.inr rfl)))) fun _ =>
    .bind (.require (.refuse _)) fun _ => .ok _

theorem v86Checks_raises (g : Target) : RaisesOnly (TableRow ev s) (v86Checks ev s g) :=
  .bind (.require (.refuse _)) fun _ => stackChecks_raises g (by decide) _

theorem sameChecks_raises (g : Target) : RaisesOnly (TableRow ev s) (sameChecks ev s g) :=
  .bind (.require (.refuse _)) fun _ =>
    .bind (.require (.raise (.noSelector (.inl rfl)))) fun _ =>
      .bind (.require (.raise (.noSelector (.inr rfl)))) fun _ => .require (.refuse _)

/-- A level below another is one of the three inner levels. -/
theorem toNat_lt_three {k l : BitVec 2} (h : k < l) : k.toNat < 3 :=
  Nat.lt_of_lt_of_le (BitVec.lt_def.1 h) (Nat.le_of_lt_succ l.isLt)

theorem throughGate_raises (size : GateSize) (b : Bool) :
    (throughGate ev s size b).RaisesOnly (TableRow ev s) := by
  refine (codeChecks_raises size b).passing fun _ _ => (choosePath_raises size b).passing fun path hpath => ?_
  cases path with
  | inner =>
    obtain ⟨_, _, hlt, _⟩ | ⟨⟨⟩, _⟩ | ⟨⟨⟩, _⟩ := (choosePath_ok ..).1 hpath
    exact (stackChecks_raises _ (toNat_lt_three hlt) _).passing fun _ _ => .transferred _
  | fromV86 => exact (v86Checks_raises _).passing fun _ _ => .transferred _
  | same => exact (sameChecks_raises _).passing fun _ _ => .transferred _

theorem taskChecks_raises :
    RaisesOnly (TableRow ev s) (taskChecks s (gateSelector (s.idtEntry ev.vector))) :=
  .bind (.require (.raise (.task (.inl rfl)))) fun _ =>
    .bind (.require (.raise (.task (.inl rfl)))) fun _ =>
      .bind (.require (.raise (.task (.inl rfl)))) fun _ => .require (.raise (.task (.inr rfl)))

theorem enterTask_raises (u : State) : (enterTask u).RaisesOnly (TableRow ev s) :=
  RaisesOnly.passing (.require (.raise (.noSelector (.inr rfl)))) fun _ _ => .transferred _

theorem finishTask_raises (u : State) : (finishTask ev u).RaisesOnly (TableRow ev s) := by
  cases h : ev.errcode with
  | none =>
    rw [finishTask_of_none h]
    exact enterTask_raises u
  | some code =>
    rw [finishTask_of_some h]
    exact RaisesOnly.passing
      (.bind (.require (.refuse _)) fun _ => .require (.raise (.noSelector (.inl rfl)))) fun _ _ => enterTask_raises _

theorem throughTaskGate_raises : (throughTaskGate ev s).RaisesOnly (TableRow ev s) := by
  refine taskChecks_raises.passing fun _ _ => ?_
  cases Config.switchTasks s (gateSelector (s.idtEntry ev.vector)) true with
  | none => exact .refused _
  | some v => exact .ite (finishTask_raises _) (.refused _)

/-- Rule R130: every raise of a delivery is a row of the table. -/
theorem deliver_raises : (deliver ev s).RaisesOnly (TableRow ev s) := by
  intro u e c h
  obtain ⟨hpe, hp, _⟩ := deliver_raised h
  rw [deliver_protected hp hpe] at h
  refine gateChecks_raises.passing (fun kind _ => ?_) u e c h
  cases kind with
  | taskGate => exact throughTaskGate_raises
  | interruptGate size => exact throughGate_raises size true
  | trapGate size => exact throughGate_raises size false

end Rows

/-- Settles O38: each row of `TableRow` is one of the statement's. -/
theorem raisesAreInTheTable : Obligations.RaisesAreInTheTable := by
  intro ev s u e code h selector
  cases deliver_raises u e code h with
  | gate he => exact .inl ⟨he, vectorError_eq ..⟩
  | nullSelector => exact .inr (.inl ⟨rfl, rfl⟩)
  | codeSegment he => exact .inr (.inr (.inl ⟨he, rfl⟩))
  | newStack he k hk => exact .inr (.inr (.inr (.inl ⟨he, k, hk, rfl⟩)))
  | noSelector he => exact .inr (.inr (.inr (.inr (.inl ⟨he, rfl⟩))))
  | task he => exact .inr (.inr (.inr (.inr (.inr ⟨he, rfl⟩))))

end Sys2Proof.Machine
end

section
/-! PROOFS. An interrupt gate and a trap gate lead to states that differ in IF alone (rule R119). -/

namespace Sys2Proof.Machine

/-! ### Clearing IF stands apart: every operation of a transfer does the same to the rest of the state -/

/-- The state with IF written to 0. -/
def State.clearIf (s : State) : State := s.mapFlags (Flags.clear · Flags.ifBit)

namespace State

variable (s : State)

theorem vmFlag_clearIf : s.clearIf.vmFlag = s.vmFlag :=
  (Flags.getLsbD_clear s.eflags Flags.ifBit Flags.vmBit).trans (Bool.and_true _)

theorem mode_clearIf : s.clearIf.mode = s.mode := mode_of_vmFlag rfl s.vmFlag_clearIf

theorem stackWide_clearIf : s.clearIf.stackWide = s.stackWide := stackWide_of_mode s.mode_clearIf rfl

theorem stackLinear_clearIf : s.clearIf.stackLinear = s.stackLinear := by
  rw [stackLinear, stackBase_of_mode s.mode_clearIf rfl, stackOffset_congr s.stackWide_clearIf rfl]
  rfl

theorem lowerStack_clearIf (n : Nat) : s.clearIf.lowerStack n = (s.lowerStack n).clearIf := by
  rw [lowerStack, loweredEsp, stackWide_clearIf]
  rfl

theorem push16_clearIf (v : Word) : s.clearIf.push16 v = (s.push16 v).clearIf := by
  simp only [push16, lowerStack_clearIf, stackLinear_clearIf]
  rfl

theorem push32_clearIf (v : DWord) : s.clearIf.push32 v = (s.push32 v).clearIf := by
  simp only [push32, lowerStack_clearIf, stackLinear_clearIf]
  rfl

theorem pushPadded_clearIf (v : Word) : s.clearIf.pushPadded v = (s.pushPadded v).clearIf := by
  simp only [pushPadded, lowerStack_clearIf, stackLinear_clearIf]
  rfl

theorem withCode_clearIf (c : SegReg) (e : DWord) : s.clearIf.withCode c e = (s.withCode c e).clearIf := rfl

theorem withStack_clearIf (c : SegReg) (e : DWord) : s.clearIf.withStack c e = (s.withStack c e).clearIf := rfl

theorem withPrivilege_clearIf (k : BitVec 2) : s.clearIf.withPrivilege k = (s.withPrivilege k).clearIf := rfl

theorem withNullDataSegments_clearIf : s.clearIf.withNullDataSegments = s.withNullDataSegments.clearIf := rfl

end State

section Operations
variable (s : State)

theorem pushPointer_clearIf (size : GateSize) (v : Word) (w : DWord) :
    pushPointer size v w s.clearIf = (pushPointer size v w s).clearIf := by
  cases size <;> simp only [pushPointer, State.push16_clearIf, State.push32_clearIf, State.pushPadded_clearIf]

theorem pushFlags_clearIf (size : GateSize) (v : DWord) :
    pushFlags size v s.clearIf = (pushFlags size v s).clearIf := by
  cases size <;> simp only [pushFlags, State.push16_clearIf, State.push32_clearIf]

theorem pushError_clearIf (ev : Event) (size : GateSize) :
    pushError ev size s.clearIf = (pushError ev size s).clearIf := by
  unfold pushError
  split <;> simp only [State.push16_clearIf, State.pushPadded_clearIf]

theorem pushDataSegments_clearIf : pushDataSegments s.clearIf = (pushDataSegments s).clearIf := by
  have hgs : s.clearIf.gs = s.gs := rfl
  have hfs : s.clearIf.fs = s.fs := rfl
  have hds : s.clearIf.ds = s.ds := rfl
  have hes : s.clearIf.es = s.es := rfl
  simp only [pushDataSegments, hgs, hfs, hds, hes, State.pushPadded_clearIf, State.withNullDataSegments_clearIf]

end Operations

/-! ### Interrupt gate against trap gate -/

section Gates
variable (ev : Event) (g : Target) (n : NewStack) (s : State)

theorem mapFlags_afterGateEntry_true :
    s.mapFlags (Flags.afterGateEntry true) = (s.mapFlags (Flags.afterGateEntry false)).clearIf := by
  have h : Flags.afterGateEntry true s.eflags = Flags.clear (Flags.afterGateEntry false s.eflags) Flags.ifBit := by
    refine BitVec.eq_of_getLsbD_eq fun i _ => ?_
    simp only [Flags.getLsbD_clear, Flags.getLsbD_afterGateEntry, Bool.true_and, Bool.false_and, Bool.not_false,
      Bool.and_true]
    ac_rfl
  exact congrArg (fun f => { s with eflags := f }) h

theorem mapFlags_afterV86Entry_true :
    s.mapFlags (Flags.afterV86Entry true) = (s.mapFlags (Flags.afterV86Entry false)).clearIf := rfl

theorem sameTransfer_interruptGate : sameTransfer ev { g with isInterrupt := true } s =
    (sameTransfer ev { g with isInterrupt := false } s).clearIf :=
  mapFlags_afterGateEntry_true _

theorem innerTransfer_interruptGate : innerTransfer ev { g with isInterrupt := true } n s =
    (innerTransfer ev { g with isInterrupt := false } n s).clearIf :=
  mapFlags_afterGateEntry_true _

/-- The Virtual 8086 path changes the flags first, so clearing IF moves past all of its pushes. -/
theorem v86Transfer_interruptGate : v86Transfer ev { g with isInterrupt := true } n s =
    (v86Transfer ev { g with isInterrupt := false } n s).clearIf := by
  simp only [v86Transfer, mapFlags_afterV86Entry_true, State.withStack_clearIf, pushDataSegments_clearIf,
    pushPointer_clearIf, pushFlags_clearIf, State.withCode_clearIf, State.withPrivilege_clearIf, pushError_clearIf]

theorem sameTransfer_flags :
    FlagsCleared (gateFlags g.isInterrupt) s.eflags (sameTransfer ev g s).eflags := by
  rw [sameTransfer_eflags]
  exact flagsCleared_afterGateEntry _ _

theorem innerTransfer_flags :
    FlagsCleared (gateFlags g.isInterrupt) s.eflags (innerTransfer ev g n s).eflags := by
  rw [innerTransfer_eflags]
  exact flagsCleared_afterGateEntry _ _

theorem v86Transfer_flags :
    FlagsCleared (v86Flags g.isInterrupt) s.eflags (v86Transfer ev g n s).eflags := by
  rw [v86Transfer_eflags]
  exact flagsCleared_afterV86Entry _ _

theorem realTransfer_flags : FlagsCleared [8, 9] s.eflags (realTransfer ev s).eflags := by
  rw [realTransfer_eflags]
  exact flagsCleared_afterRealEntry _

end Gates

namespace FlagsCleared
variable {bits : List Nat} {f g : DWord}

/-- A listed flag is 0 afterwards. -/
theorem cleared (h : FlagsCleared bits f g) {k : Nat} (hk : k ∈ bits) : g.getLsbD k = false :=
  (h k).trans (if_pos hk)

/-- A flag that is not listed is as before. -/
theorem kept (h : FlagsCleared bits f g) {k : Nat} (hk : k ∉ bits) : g.getLsbD k = f.getLsbD k :=
  (h k).trans (if_neg hk)

end FlagsCleared

/-- Settles O42: on each path the interrupt gate's state is the trap gate's with IF cleared, and the flags of each
transfer are those its rule lists. -/
theorem gatesDifferInInterruptFlag : Obligations.GatesDifferInInterruptFlag := by
  intro ev s g n clearIf trap intr
  have hsame : FlagsCleared [8, 14] s.eflags (sameTransfer ev trap s).eflags := sameTransfer_flags ev trap s
  have hinner : FlagsCleared [8, 14] s.eflags (innerTransfer ev trap n s).eflags := innerTransfer_flags ev trap n s
  have hv86 : FlagsCleared [8, 17] s.eflags (v86Transfer ev trap n s).eflags := v86Transfer_flags ev trap n s
  refine ⟨sameTransfer_interruptGate ev g s, innerTransfer_interruptGate ev g n s, v86Transfer_interruptGate ev g n s,
    ?_, hsame.cleared (by decide), hinner.cleared (by decide), hv86.cleared (by decide),
    fun hnt => (hv86.kept (by decide)).trans hnt, (realTransfer_flags ev s).cleared (by decide)⟩
  simp only [List.forall_mem_cons, List.not_mem_nil, false_imp_iff, implies_true, and_true]
  exact ⟨⟨hsame.kept (by decide), hsame.cleared (by decide)⟩,
    ⟨hinner.kept (by decide), hinner.cleared (by decide)⟩, hv86.kept (by decide), hv86.cleared (by decide)⟩

end Sys2Proof.Machine
end


section
/-! PROOFS. The clock counts of the page (rules R176, R177). -/

namespace Sys2Proof.Machine

section ClockColumn
variable (i : Instr)

@[simp] theorem clockCount_samePrivilege : clockCount i .samePrivilege = some (.clocks 59) := by cases i <;> rfl

@[simp] theorem clockCount_morePrivilege : clockCount i .morePrivilege = some (.clocks 99) := by cases i <;> rfl

@[simp] theorem clockCount_fromV86 : clockCount i .fromV86 = some (.clocks 119) := by cases i <;> rfl

@[simp] theorem clockCount_taskGate : clockCount i .taskGate = some .ts := by cases i <;> rfl

end ClockColumn

/-- Settles O50: the instructions' own counts in Real Address Mode, the counts that all three share, and the ts
table. -/
theorem clockTables : Obligations.ClockTables := by
  refine ⟨fun i => ⟨?_, clockCount_samePrivilege i, clockCount_morePrivilege i, clockCount_fromV86 i,
    clockCount_taskGate i⟩, rfl, rfl⟩
  cases i <;> rfl

end Sys2Proof.Machine
end
